-- ==== Sys2Proof/Word.lean ====
section
/-! DEFINITION. The two word types of the core: the host bus carries 32-bit words (20_memory.md R81),
a frame-buffer element is 8 bits (10_state.md R50). -/

namespace Sys2Proof

/-- A host bus word (20_memory.md R81). -/
abbrev Word := BitVec 32

/-- A frame-buffer element (10_state.md R50). -/
abbrev Byte := BitVec 8

end Sys2Proof
end

