-- ==== Sys2Proof/Config.lean ====
section
/-! DEFINITION. What the implementation fixes (00_scope.md R8, R10), the names its rules range over, the
parameters the model takes (00_scope.md R9), and the one free value (10_state.md R37). -/

namespace Sys2Proof

/-! ### Sizes (00_scope.md R8, R10) -/

/-- NMAX: frame-buffer elements. -/
def nMax : Nat := 64800

/-- OB_SIZE: output-buffer entries. -/
def obSize : Nat := 32400

/-- NF_MAX: field slots per signaling record. -/
def nfMax : Nat := 1024

/-- NBCHP: BCH parity bits. -/
def nBchParity : Nat := 168

/-- GRP: LDPC replication count and puncture group size. -/
def grp : Nat := 360

/-! ### Names -/

/-- The record selector `rec` (00_scope.md R14). -/
inductive Rec where
  | pre
  | post
  deriving DecidableEq, Repr, Inhabited

/-- The frame-size class (10_state.md R39, FSIZE). -/
inductive FrameSize where
  | normal
  | short
  deriving DecidableEq, Repr, Inhabited

/-- The five modulations (00_scope.md R15). -/
inductive Modulation where
  | bpsk
  | qpsk
  | qam16
  | qam64
  | qam256
  deriving DecidableEq, Repr, Inhabited

/-- The SEL forms of MAP (30_encoding.md R113). -/
inductive MapSel where
  | pay
  | pre
  | post
  deriving DecidableEq, Repr, Inhabited

/-- One value for each record. -/
structure PerRec (α : Type) where
  pre : α
  post : α
  deriving DecidableEq, Repr, Inhabited

/-! ### Host bus accesses (20_memory.md R81, R82) -/

/-- Access widths of a host bus; only `w32` is admitted (20_memory.md R82). -/
inductive Width where
  | w8
  | w16
  | w32
  | w64
  deriving DecidableEq, Repr, Inhabited

/-- MemRead or MemWrite of a value (20_memory.md R81). -/
inductive BusOp where
  | read
  | write (v : Word)
  deriving DecidableEq, Repr, Inhabited

/-- One host access. -/
structure Access where
  op : BusOp
  addr : Nat
  width : Width
  deriving DecidableEq, Repr, Inhabited

/-! ### Parameters (00_scope.md R9)

Plain data: a parameter that the spec gives as a function of finitely many codes is a table with a default
(log 2). A partial function is a table of options. -/

/-- A function of `κ` as plain data: the listed rows, and one value for every other key (log 2). -/
structure Table (κ α : Type) where
  rows : List (κ × α)
  other : α
  deriving DecidableEq, Repr, Inhabited

/-- A row of LDPC_BASE: "a count c_r followed by offsets" (43_ldpc.md R210). -/
structure BaseRow where
  count : Nat
  offsets : List Nat
  deriving DecidableEq, Repr, Inhabited

/-- A twist and demultiplex table set (TW, DM) (45_interleave.md R260). -/
structure TableSet where
  tw : List Nat
  dm : List Nat
  deriving DecidableEq, Repr, Inhabited

/-- A value of FFT_FACTOR: "a partial map ... to {1, 2}" (44_puncture.md R235). -/
inductive FramingFactor where
  | one
  | two
  deriving DecidableEq, Repr, Inhabited

/-- The parameters of 00_scope.md R9. `cfg` is the 15-bit configuration word of 40_control.md R144. -/
structure Params where
  /-- BCH_FACTORS, each polynomial as the natural number of 00_scope.md R13. -/
  bchFactors : List Nat
  /-- K_BCH(rec). -/
  kBch : PerRec Nat
  /-- N_LDPC_SIG. -/
  nLdpcSig : Nat
  /-- LDPC_BASE(rec). -/
  ldpcBase : PerRec (List BaseRow)
  /-- PUNC_ORDER(rec). -/
  puncOrder : PerRec (List Nat)
  /-- PUNC_TEMP(rec, ksig, cfg). -/
  puncTemp : PerRec (Table (Nat × BitVec 15) (Option Nat))
  /-- FFT_FACTOR(fft). -/
  fftFactor : Table (BitVec 3) (Option FramingFactor)
  /-- SCHEMA(rec, cfg). -/
  schema : PerRec (Table (BitVec 15) (List Nat))
  /-- EXPLEN(rec, cfg). -/
  expLen : PerRec (Table (BitVec 15) Nat)
  /-- VALID_RATE(fsize, rate). -/
  validRate : Table (FrameSize × BitVec 3) Bool
  /-- TABLESET(mod, rate, fsize). -/
  tableSet : Table (Modulation × BitVec 3 × FrameSize) (Option TableSet)
  /-- L1_TABLESET(mod). -/
  l1TableSet : Table Modulation (Option TableSet)
  deriving DecidableEq, Repr, Inhabited

/-- The implementation's parameters. No body: nothing can be proved about their values (00_scope.md R9 calls
each of them OPEN; log 1). -/
opaque Config.params : Params

/-- The free value behind a STATUS.STATE read while BUSY = 1: "Which one is unspecified" (10_state.md R37;
log 6). Applied to the number of codes drawn so far. -/
opaque Config.freeStage : Nat → Nat

end Sys2Proof
end

