-- ==== Sys2Proof/Syntax.lean ====
section
/-! DEFINITION. The 23 commands, one constructor per row of spec/opcode_table.json (30_encoding.md R112).
"Commands carry no immediates and no register numbers" (R116), so no constructor has an argument. -/

namespace Sys2Proof

/-- A command of the core (30_encoding.md R112). -/
inductive Instr where
  | nop
  | configure
  | softReset
  | clear
  | packPre
  | packPost
  | crcAppend
  | padPre
  | padPost
  | bchEncodePre
  | bchEncodePost
  | ldpcEncodePre
  | ldpcEncodePost
  | puncturePre
  | puncturePost
  | interleavePay
  | interleavePost
  | mapPay
  | mapPre
  | mapPost
  | assemblePre
  | assemblePost
  | payload
  deriving DecidableEq, Repr, Inhabited

end Sys2Proof
end

