-- ==== Sys2Proof/WellFormed.lean ====
section
/-! DEFINITION. What is well formed: the fields of a command word (30_encoding.md R110, R113, R114) and a host
access (20_memory.md R81, R82). An `Instr` has no operand, so every one is well formed (R116). -/

namespace Sys2Proof

/-- The three fields of a command word (30_encoding.md R110). -/
structure Fields where
  opcode : BitVec 8
  sel : BitVec 4
  zero : BitVec 20
  deriving DecidableEq, Repr

/-- ZERO "must be 0" (30_encoding.md R110). -/
def Fields.zeroOk (f : Fields) : Bool := f.zero == 0#20

/-- How many SEL values the OPCODE has, 0 for an OPCODE not in the table (30_encoding.md R112, R113):
1 where "SEL must be 0", 2 for a record or a path, 3 for MAP. -/
def selCount (opcode : BitVec 8) : Nat :=
  if opcode = 0x00#8 then 1       -- NOP
  else if opcode = 0x01#8 then 1  -- CONFIGURE
  else if opcode = 0x02#8 then 1  -- SOFT_RESET
  else if opcode = 0x03#8 then 1  -- CLEAR
  else if opcode = 0x10#8 then 2  -- PACK
  else if opcode = 0x11#8 then 1  -- CRC_APPEND
  else if opcode = 0x12#8 then 2  -- PAD
  else if opcode = 0x13#8 then 2  -- BCH_ENCODE
  else if opcode = 0x14#8 then 2  -- LDPC_ENCODE
  else if opcode = 0x15#8 then 2  -- PUNCTURE
  else if opcode = 0x16#8 then 2  -- INTERLEAVE
  else if opcode = 0x17#8 then 3  -- MAP
  else if opcode = 0x20#8 then 2  -- ASSEMBLE
  else if opcode = 0x21#8 then 1  -- PAYLOAD
  else 0

/-- "OPCODE is in the table" (30_encoding.md R114, first condition). -/
def Fields.opcodeOk (f : Fields) : Bool := decide (0 < selCount f.opcode)

/-- "SEL is a value that rule R113 allows for that OPCODE" (30_encoding.md R114, second condition). -/
def Fields.selOk (f : Fields) : Bool := decide (f.sel.toNat < selCount f.opcode)

/-- The fields of a legal command word: none of R114's three conditions holds. -/
def Fields.legal (f : Fields) : Bool := f.opcodeOk && f.selOk && f.zeroOk

/-- Every command is well formed: it has no operand (30_encoding.md R116). -/
def Instr.wf (_ : Instr) : Bool := true

/-- The address is a multiple of 4 (20_memory.md R81, R82). -/
def Access.aligned (a : Access) : Bool := a.addr % 4 == 0

/-- The access is 32 bits wide (20_memory.md R82). -/
def Access.wide32 (a : Access) : Bool := a.width == .w32

/-- The address lies in the 20-bit space (20_memory.md R80, R81; log 11). -/
def Access.inSpace (a : Access) : Bool := decide (a.addr < 2 ^ 20)

/-- An admitted access (20_memory.md R81, R82). -/
def Access.admitted (a : Access) : Bool := a.aligned && a.wide32 && a.inSpace

end Sys2Proof
end

