-- ==== Sys2Proof/Decode.lean ====
section
/-! DEFINITION. The decoder of a command word and, after it, the encoder (30_encoding.md R110 to R115). Both
follow the table of R112. -/

namespace Sys2Proof

/-- Bits 31:24, 23:20 and 19:0 (30_encoding.md R110). -/
def Fields.ofWord (w : Word) : Fields :=
  { opcode := w.extractLsb' 24 8, sel := w.extractLsb' 20 4, zero := w.extractLsb' 0 20 }

/-- The word of the fields: `OPCODE << 24 | SEL << 20`, with ZERO below (30_encoding.md R110). -/
def Fields.toWord (f : Fields) : Word := f.opcode ++ f.sel ++ f.zero

/-- The command of a row (OPCODE, SEL) of 30_encoding.md R112, none for a pair that is no row. -/
def rowInstr (opcode : BitVec 8) (sel : BitVec 4) : Option Instr :=
  if opcode = 0x00#8 ∧ sel = 0#4 then some .nop
  else if opcode = 0x01#8 ∧ sel = 0#4 then some .configure
  else if opcode = 0x02#8 ∧ sel = 0#4 then some .softReset
  else if opcode = 0x03#8 ∧ sel = 0#4 then some .clear
  else if opcode = 0x10#8 ∧ sel = 0#4 then some .packPre
  else if opcode = 0x10#8 ∧ sel = 1#4 then some .packPost
  else if opcode = 0x11#8 ∧ sel = 0#4 then some .crcAppend
  else if opcode = 0x12#8 ∧ sel = 0#4 then some .padPre
  else if opcode = 0x12#8 ∧ sel = 1#4 then some .padPost
  else if opcode = 0x13#8 ∧ sel = 0#4 then some .bchEncodePre
  else if opcode = 0x13#8 ∧ sel = 1#4 then some .bchEncodePost
  else if opcode = 0x14#8 ∧ sel = 0#4 then some .ldpcEncodePre
  else if opcode = 0x14#8 ∧ sel = 1#4 then some .ldpcEncodePost
  else if opcode = 0x15#8 ∧ sel = 0#4 then some .puncturePre
  else if opcode = 0x15#8 ∧ sel = 1#4 then some .puncturePost
  else if opcode = 0x16#8 ∧ sel = 0#4 then some .interleavePay
  else if opcode = 0x16#8 ∧ sel = 1#4 then some .interleavePost
  else if opcode = 0x17#8 ∧ sel = 0#4 then some .mapPay
  else if opcode = 0x17#8 ∧ sel = 1#4 then some .mapPre
  else if opcode = 0x17#8 ∧ sel = 2#4 then some .mapPost
  else if opcode = 0x20#8 ∧ sel = 0#4 then some .assemblePre
  else if opcode = 0x20#8 ∧ sel = 1#4 then some .assemblePost
  else if opcode = 0x21#8 ∧ sel = 0#4 then some .payload
  else none

/-- The decoder: total on every word, `none` exactly on the illegal ones (30_encoding.md R111, R114). -/
def decode (w : Word) : Option Instr :=
  let f := Fields.ofWord w
  if f.zeroOk then rowInstr f.opcode f.sel else none

/-- The decoder on a word numbered as spec/opcode_table.json numbers it. The core has no byte lanes (20_memory.md
R83): the word is the number. -/
def decodeTableWord (nbits w : Nat) : Option Instr := decode (BitVec.ofNat 32 (w % 2 ^ nbits))

/-! ### The encoder -/

/-- The OPCODE column of 30_encoding.md R112. -/
def Instr.opcode : Instr → BitVec 8
  | .nop => 0x00#8
  | .configure => 0x01#8
  | .softReset => 0x02#8
  | .clear => 0x03#8
  | .packPre => 0x10#8
  | .packPost => 0x10#8
  | .crcAppend => 0x11#8
  | .padPre => 0x12#8
  | .padPost => 0x12#8
  | .bchEncodePre => 0x13#8
  | .bchEncodePost => 0x13#8
  | .ldpcEncodePre => 0x14#8
  | .ldpcEncodePost => 0x14#8
  | .puncturePre => 0x15#8
  | .puncturePost => 0x15#8
  | .interleavePay => 0x16#8
  | .interleavePost => 0x16#8
  | .mapPay => 0x17#8
  | .mapPre => 0x17#8
  | .mapPost => 0x17#8
  | .assemblePre => 0x20#8
  | .assemblePost => 0x20#8
  | .payload => 0x21#8

/-- The SEL column of 30_encoding.md R112. -/
def Instr.sel : Instr → BitVec 4
  | .nop => 0#4
  | .configure => 0#4
  | .softReset => 0#4
  | .clear => 0#4
  | .packPre => 0#4
  | .packPost => 1#4
  | .crcAppend => 0#4
  | .padPre => 0#4
  | .padPost => 1#4
  | .bchEncodePre => 0#4
  | .bchEncodePost => 1#4
  | .ldpcEncodePre => 0#4
  | .ldpcEncodePost => 1#4
  | .puncturePre => 0#4
  | .puncturePost => 1#4
  | .interleavePay => 0#4
  | .interleavePost => 1#4
  | .mapPay => 0#4
  | .mapPre => 1#4
  | .mapPost => 2#4
  | .assemblePre => 0#4
  | .assemblePost => 1#4
  | .payload => 0#4

/-- The command word of an instruction (30_encoding.md R110, R112). -/
def encode (i : Instr) : Word := Fields.toWord { opcode := i.opcode, sel := i.sel, zero := 0#20 }

end Sys2Proof
end

