-- ==== Sys2Proof/Machine/State.lean ====
section
/-! DEFINITION. Everything the spec gives the core (10_state.md), as plain data, and the state after reset
(10_state.md R61, 70_reset_and_hazards.md R370). INVENTORY.md lists every field with its rule. -/

namespace Sys2Proof.Machine

open Sys2Proof

/-! ### Why a step can stop -/

/-- Why the machine stops with a fault. -/
inductive Fault where
  /-- Raised by a host access other than to STATUS or CTRL while BUSY = 1: "The model treats it as a fault of
  the run" (60_exceptions.md R339). Safe: nothing is claimed after it. -/
  | hostHazard
  deriving DecidableEq, Repr

/-- Why the model gives a step no meaning. -/
inductive Refusal where
  /-- Raised by an arm of exec that has no meaning yet (none is left). Safe. -/
  | notModelled (mnemonic : String)
  /-- Raised by a host access that is not an aligned 32-bit access of the 20-bit space: "The model marks the run
  refused and gives it no step" (60_exceptions.md R340, 20_memory.md R81, R82; log 11). Safe. -/
  | accessNotAdmitted
  deriving DecidableEq, Repr

/-- The command errors of 60_exceptions.md R331, each with what its information word holds. They stop nothing:
a command that raises one ends in a next state (R333). -/
inductive CmdError where
  | illegal (word : Word)
  | notCfg (word : Word)
  | config (check : Nat)
  | len (n : Nat)
  | undef (index : Nat)
  | data (index : Nat)
  | outSize (outReq : BitVec 16)
  | mode (l1Mod : BitVec 4)
  deriving DecidableEq, Repr

/-! ### What acts on the core -/

/-- What the outside world does next (log 3): a host access, a turn given to the engine, or the reset input. -/
inductive Input where
  | bus (a : Access)
  | engine
  | reset
  deriving DecidableEq, Repr

/-! ### Buffers (log 8) -/

/-- The frame buffer: its VALID elements in rising order of index; an element not listed has VALID = 0 and value
0 (10_state.md R50). -/
abbrev Memory := List Host.Cell

/-- A RAM of 32-bit entries that reset to 0: its entries that are not 0, in rising order of index
(10_state.md R51, R52). -/
abbrev WordRam := List (Nat × Word)

/-! ### The configuration store -/

/-- DP's values for one record (10_state.md R54, and the puncture order that 44_puncture.md R238 reads from
DP). -/
structure RecParams where
  kSig : Nat
  kBch : Nat
  kLdpc : Nat
  pBits : Nat
  q : Nat
  eta : Nat
  nFec : Nat
  nPunc : Nat
  nSym : Nat
  puncOrder : List Nat
  deriving DecidableEq, Repr

/-- DP, the active derived-parameter set (10_state.md R54, 40_control.md R146). -/
structure DerivedParams where
  recs : PerRec RecParams
  nFrame : Nat
  etaPay : Nat
  payTables : Option TableSet
  l1Tables : Option TableSet
  deriving DecidableEq, Repr

/-- The derived registers the host reads (10_state.md R46, R47). -/
structure DerivedRegs where
  kSig : PerRec (BitVec 16)
  nFec : PerRec (BitVec 16)
  nSym : PerRec (BitVec 16)
  nSymPay : BitVec 16
  schedLen : PerRec (BitVec 20)
  deriving DecidableEq, Repr

/-- All that a successful CONFIGURE computes (40_control.md R146): GEN, SCHED, DP and the derived registers.
BCH_GEN0 to BCH_GEN5 mirror GEN (10_state.md R56) and are read from it. -/
structure ConfigStore where
  gen : BitVec 168
  /-- SCHED(rec): the pairs (SP[e], SD[e]) in order (10_state.md R55). -/
  sched : PerRec (List (Nat × Nat))
  dp : DerivedParams
  regs : DerivedRegs
  deriving DecidableEq, Repr

/-- DP after reset is "undefined and unread" (10_state.md R61). DESIGN CHOICE: all zero (log 7). -/
def RecParams.zero : RecParams :=
  { kSig := 0, kBch := 0, kLdpc := 0, pBits := 0, q := 0, eta := 0, nFec := 0, nPunc := 0, nSym := 0,
    puncOrder := [] }

/-- The configuration store after reset (10_state.md R61; DP: log 7). -/
def ConfigStore.reset : ConfigStore :=
  { gen := 0
    sched := { pre := [], post := [] }
    dp :=
      { recs := { pre := RecParams.zero, post := RecParams.zero }
        nFrame := 0, etaPay := 0, payTables := none, l1Tables := none }
    regs :=
      { kSig := { pre := 0, post := 0 }
        nFec := { pre := 0, post := 0 }
        nSym := { pre := 0, post := 0 }
        nSymPay := 0
        schedLen := { pre := 0, post := 0 } } }

/-! ### The state -/

/-- The core and what acts on it. -/
structure State where
  /-- CTRL.IE_DONE (10_state.md R32). -/
  ieDone : Bool
  /-- CTRL.IE_ERR (10_state.md R32). -/
  ieErr : Bool
  /-- STATUS.BUSY (10_state.md R33). -/
  busy : Bool
  /-- STATUS.DONE (10_state.md R34). -/
  done : Bool
  /-- STATUS.ERR (10_state.md R35). -/
  err : Bool
  /-- STATUS.CONFIGURED (10_state.md R36). -/
  configured : Bool
  /-- STATUS.ERRCODE (10_state.md R35). -/
  errCode : BitVec 8
  /-- ERR_INFO (10_state.md R49). -/
  errInfo : Word
  /-- LATCH, the command word being executed (10_state.md R53). -/
  latch : Word
  /-- CFG0[14:0] (10_state.md R39). -/
  cfg0 : BitVec 15
  /-- ACTCFG[14:0] (10_state.md R40). -/
  actCfg : BitVec 15
  /-- CURSOR[16:0] (10_state.md R41). -/
  cursor : BitVec 17
  /-- OUT_REQ[15:0] (10_state.md R42). -/
  outReq : BitVec 16
  /-- OUT_COUNT[15:0] (10_state.md R43). -/
  outCount : BitVec 16
  /-- OUT_MOD[3:0]: OUTFMT and MODCODE (10_state.md R43). -/
  outMod : BitVec 4
  /-- CRC_VALUE (10_state.md R44). -/
  crcValue : Word
  /-- PUNC_COUNT[15:0] (10_state.md R45). -/
  puncCount : BitVec 16
  /-- REMOVED_COUNT[15:0] (10_state.md R45). -/
  removedCount : BitVec 16
  /-- GEN, SCHED, DP and the derived registers (10_state.md R46 to R48, R54 to R56). -/
  store : ConfigStore
  /-- FB (10_state.md R50). -/
  fb : Memory
  /-- OB (10_state.md R51). -/
  ob : WordRam
  /-- FIELD_PRE and FIELD_POST (10_state.md R52). -/
  slots : PerRec WordRam
  /-- The model's own: the parameters (00_scope.md R9), read-only (log 1). -/
  params : Params
  /-- The model's own: what the outside world does next (log 3). -/
  inputs : List Input
  /-- The model's own: the word the host's last read returned (log 5). -/
  readData : Word
  /-- The model's own: how many STATUS.STATE codes have been drawn (log 6). -/
  draws : Nat
  deriving DecidableEq, Repr

/-- The machine right after reset (10_state.md R61, 70_reset_and_hazards.md R370, R372). DP is log 7's choice;
the model's own fields are those of logs 1, 3, 5 and 6. -/
def State.reset : State :=
  { ieDone := false
    ieErr := false
    busy := false
    done := false
    err := false
    configured := false
    errCode := 0
    errInfo := 0
    latch := 0
    cfg0 := 0
    actCfg := 0
    cursor := 0
    outReq := 0
    outCount := 0
    outMod := 0
    crcValue := 0
    puncCount := 0
    removedCount := 0
    store := ConfigStore.reset
    fb := []
    ob := []
    slots := { pre := [], post := [] }
    params := Config.params
    inputs := []
    readData := 0
    draws := 0 }

/-- What one step answers. -/
abbrev Result := Host.Outcome State Fault Refusal

end Sys2Proof.Machine
end

