-- ==== Sys2Proof/Machine/Ops.lean ====
section
/-! DEFINITION. The shared operations: access to the buffers, ending a command with an error (the core's
exception entry), ending it with success, issuing one, the host's acknowledgement of an error (the core's
exception return), and reset. -/

namespace Sys2Proof

/-- The value a per-record quantity has for `rec` (00_scope.md R14). -/
def PerRec.get {α : Type} (p : PerRec α) : Rec → α
  | .pre => p.pre
  | .post => p.post

/-- Replace the value for `rec`. -/
def PerRec.set {α : Type} (p : PerRec α) (r : Rec) (v : α) : PerRec α :=
  match r with
  | .pre => { p with pre := v }
  | .post => { p with post := v }

/-- The same function for both records. -/
def PerRec.of {α : Type} (f : Rec → α) : PerRec α := { pre := f .pre, post := f .post }

/-- The first row whose key is `k`. -/
def Table.find {κ α : Type} [DecidableEq κ] (k : κ) : List (κ × α) → Option α
  | [] => none
  | (k', v) :: rest => if k' = k then some v else Table.find k rest

/-- The parameter's value at `k` (log 2). -/
def Table.at {κ α : Type} [DecidableEq κ] (t : Table κ α) (k : κ) : α := (Table.find k t.rows).getD t.other

namespace Machine

/-! ### Lists of cells in rising order -/

/-- The value listed for index `k`. -/
def cellAt {α : Type} (k : Nat) : List (Nat × α) → Option α
  | [] => none
  | (i, v) :: rest => if i = k then some v else cellAt k rest

/-- The values `vs` at the indices from `base` on. -/
def cellsFrom {α : Type} (base : Nat) : List α → List (Nat × α)
  | [] => []
  | v :: vs => (base, v) :: cellsFrom (base + 1) vs

/-- Put `new` where `m` lists indices `base` to `base + n - 1`. -/
def splice {α : Type} (m : List (Nat × α)) (base n : Nat) (new : List (Nat × α)) : List (Nat × α) :=
  m.filter (fun c => decide (c.1 < base)) ++ new ++ m.filter (fun c => decide (base + n ≤ c.1))

/-! ### The frame buffer (10_state.md R50) -/

/-- The canonical form of the frame buffer: rising indices, each of an element that exists. -/
abbrev Memory.wf (m : Memory) : Prop := m.Pairwise (fun c d => c.1 < d.1) ∧ ∀ c ∈ m, c.1 < nMax

/-- Element `k`: its value if VALID[k] = 1, none if VALID[k] = 0 (10_state.md R50). -/
def Memory.elem (m : Memory) (k : Nat) : Option Byte := cellAt k m

/-- FB[k] as a window reads it: "An element with VALID = 0 reads as 0x00" (20_memory.md R84). -/
def Memory.value (m : Memory) (k : Nat) : Byte := (m.elem k).getD 0

/-- `FB[base + j] <- vs[j]; VALID[base + j] <- 1` for every j. Elements that do not exist are not written
(log 9). -/
def Memory.write (m : Memory) (base : Nat) (vs : List Byte) : Memory :=
  splice m base vs.length ((cellsFrom base vs).filter (fun c => decide (c.1 < nMax)))

/-- A bit as an element's value (00_scope.md R12, bitwrite). -/
def bitByte (b : Bool) : Byte := if b then 1 else 0

/-- `bitwrite(base + j, bs[j])` for every j (00_scope.md R12). -/
def Memory.writeBits (m : Memory) (base : Nat) (bs : List Bool) : Memory := m.write base (bs.map bitByte)

/-- `FB[i] <- 0; VALID[i] <- 0` for every i: every element invalid (10_state.md R50). -/
def Memory.invalid : Memory := []

/-! ### RAMs of words that reset to 0 (10_state.md R51, R52) -/

/-- The canonical form of a word RAM of `size` entries: rising indices, each of an entry that exists, no entry
that is 0. -/
abbrev WordRam.wf (size : Nat) (m : WordRam) : Prop :=
  m.Pairwise (fun c d => c.1 < d.1) ∧ ∀ c ∈ m, c.1 < size ∧ c.2 ≠ 0

/-- Entry `i`. -/
def WordRam.read (m : WordRam) (i : Nat) : Word := (cellAt i m).getD 0

/-- Entries `base`, `base + 1`, ... take the values `vs`. -/
def WordRam.write (m : WordRam) (base : Nat) (vs : List Word) : WordRam :=
  splice m base vs.length ((cellsFrom base vs).filter (fun c => decide (c.2 ≠ 0)))

/-! ### The end of a command -/

/-- The code of an error (60_exceptions.md R331). -/
def CmdError.code : CmdError → BitVec 8
  | .illegal _ => 0x01
  | .notCfg _ => 0x02
  | .config _ => 0x03
  | .len _ => 0x04
  | .undef _ => 0x05
  | .data _ => 0x06
  | .outSize _ => 0x07
  | .mode _ => 0x08

/-- The information word of an error (60_exceptions.md R331). -/
def CmdError.info : CmdError → Word
  | .illegal w => w
  | .notCfg w => w
  | .config n => BitVec.ofNat 32 n
  | .len n => BitVec.ofNat 32 n
  | .undef k => BitVec.ofNat 32 k
  | .data k => BitVec.ofNat 32 k
  | .outSize v => v.setWidth 32
  | .mode v => v.setWidth 32

/-- Error entry (60_exceptions.md R333): "the engine performs these writes ... and no others". STATUS.STATE
reads 0 once BUSY is 0. -/
def raise (e : CmdError) (s : State) : State :=
  { s with err := true, errCode := e.code, errInfo := e.info, busy := false }

/-- Success (40_control.md R141): `STATUS.DONE <- 1; STATUS.BUSY <- 0`. -/
def finish (s : State) : State := { s with done := true, busy := false }

/-- What a command's body answers: the state it leaves, or the error it raises. A raised error drops every
effect of the body: "every other piece of state keeps the value it had at issue" (60_exceptions.md R333). -/
abbrev Body := State → Except CmdError State

/-- Run a command with cfg = 0 (40_control.md R141). -/
def runAlways (body : Body) (s : State) : Result :=
  match body s with
  | .ok t => .next (finish t)
  | .error e => .next (raise e s)

/-- Run a command with cfg = 1: ERR_NOTCFG with the command word while CONFIGURED = 0 (40_control.md R141). -/
def runConfigured (body : Body) (s : State) : Result :=
  if s.configured then runAlways body s else .next (raise (.notCfg s.latch) s)

/-! ### Issue and acknowledgement -/

/-- Command issue while BUSY = 0 (40_control.md R140): ignored while ERR = 1. -/
def issue (w : Word) (s : State) : State :=
  if s.err then s else { s with latch := w, done := false, busy := true }

/-- A host write to STATUS (10_state.md R34, R35): bit 1 clears DONE, bit 2 clears ERR, ERRCODE and ERR_INFO.
This is the return from an error (60_exceptions.md R335). -/
def acknowledge (v : Word) (s : State) : State :=
  { s with
    done := s.done && !v.getLsbD 1
    err := s.err && !v.getLsbD 2
    errCode := if v.getLsbD 2 then 0 else s.errCode
    errInfo := if v.getLsbD 2 then 0 else s.errInfo }

/-! ### Reset -/

/-- The reset of 70_reset_and_hazards.md R370: every piece of the core's state takes its reset value. The model's
own fields are not the core's and stay (logs 1, 3, 5, 6). -/
def resetCore (s : State) : State :=
  { State.reset with params := s.params, inputs := s.inputs, readData := s.readData, draws := s.draws }

end Machine

end Sys2Proof
end

