-- ==== Sys2Proof/Machine/Operands.lean ====
section
/-! DEFINITION. The commands' implicit operands (30_encoding.md R116): configuration fields, the checked read of
frame-buffer bits, bit sequences, and the host's addresses. -/

namespace Sys2Proof.Machine

open Sys2Proof

/-! ### Modulations (00_scope.md R15) -/

/-- MODCODE of a modulation. -/
def modCode : Modulation → BitVec 3
  | .bpsk => 0
  | .qpsk => 1
  | .qam16 => 2
  | .qam64 => 3
  | .qam256 => 4

/-- The modulation of a MODCODE. Codes above 4 arise only from ACTCFG fields that CONFIGURE rejects
(log 10). -/
def modOfCode : Nat → Modulation
  | 0 => .bpsk
  | 1 => .qpsk
  | 2 => .qam16
  | 3 => .qam64
  | _ => .qam256

/-- η, bits per symbol. -/
def eta : Modulation → Nat
  | .bpsk => 1
  | .qpsk => 2
  | .qam16 => 4
  | .qam64 => 6
  | .qam256 => 8

/-! ### Fields of a configuration word (10_state.md R39, 40_control.md R144) -/

/-- FSIZE, bit 0. -/
def cfgFsize (c : BitVec 15) : FrameSize := if c.getLsbD 0 then .short else .normal

/-- RATE, bits 3:1. -/
def cfgRate (c : BitVec 15) : BitVec 3 := c.extractLsb' 1 3

/-- PLP_MOD, bits 6:4. -/
def cfgPlpMod (c : BitVec 15) : BitVec 3 := c.extractLsb' 4 3

/-- L1_MOD, bits 10:7. -/
def cfgL1Mod (c : BitVec 15) : BitVec 4 := c.extractLsb' 7 4

/-- FFT, bits 13:11. -/
def cfgFft (c : BitVec 15) : BitVec 3 := c.extractLsb' 11 3

/-- OUTFMT, bit 14. -/
def cfgOutFmt (c : BitVec 15) : Bool := c.getLsbD 14

/-- The payload modulation: MODCODE PLP_MOD + 1 (30_encoding.md R118). -/
def payMod (c : BitVec 15) : Modulation := modOfCode ((cfgPlpMod c).toNat + 1)

/-- The L1-post modulation: MODCODE L1_MOD (30_encoding.md R118). -/
def l1Mod (c : BitVec 15) : Modulation := modOfCode (cfgL1Mod c).toNat

/-- The modulation a form of MAP uses (46_mapper.md R280); MOD_PRE is BPSK (00_scope.md R10). -/
def mapMod (c : BitVec 15) : MapSel → Modulation
  | .pay => payMod c
  | .pre => .bpsk
  | .post => l1Mod c

/-- "ACTCFG.L1_MOD in {2, 3}" (45_interleave.md R266, 47_assembler.md R303). -/
def l1Interleaved (c : BitVec 15) : Bool := cfgL1Mod c == 2#4 || cfgL1Mod c == 3#4

/-- N_FRAME(fsize) (00_scope.md R10). -/
def nFrameOf : FrameSize → Nat
  | .normal => 64800
  | .short => 16200

/-- COLS(mod, fsize): 2η, but η for 256-QAM in a short frame; 0 where the table gives none (45_interleave.md
R262). -/
def cols : Modulation → FrameSize → Nat
  | .bpsk, _ => 0
  | .qpsk, _ => 0
  | .qam16, _ => 8
  | .qam64, _ => 12
  | .qam256, .normal => 16
  | .qam256, .short => 8

/-- `ceil_div(a, b)` for b > 0 (00_scope.md R12). -/
def ceilDiv (a b : Nat) : Nat := (a + b - 1) / b

/-! ### Bit sequences (00_scope.md R11) -/

/-- The n-bit value v MSB-first: `v[n-1], ..., v[0]`. -/
def msbBits {w : Nat} (n : Nat) (v : BitVec w) : List Bool := (List.range n).map (fun j => v.getLsbD (n - 1 - j))

/-- A bit sequence as a number, its first bit most significant (46_mapper.md R289). -/
def bitsToNat (bs : List Bool) : Nat := bs.foldl (fun acc b => 2 * acc + b.toNat) 0

/-! ### The checked read (00_scope.md R12, 10_state.md R50) -/

/-- A listed element as one bit: ERR_DATA if it is above 1. -/
def bitOf (k : Nat) (v : Byte) : Except CmdError Bool :=
  if 1 < v.toNat then .error (.data k) else .ok (v == 1)

/-- `bitread(k)` (00_scope.md R12). The spec gives a read of an element that does not exist no meaning; DESIGN CHOICE: for
k at NMAX or above it raises ERR_UNDEF(k), as if VALID[k] = 0 (log 18). -/
def bitRead (m : Memory) (k : Nat) : Except CmdError Bool :=
  match m.elem k with
  | none => .error (.undef k)
  | some v => bitOf k v

/-- `b_j <- bitread(j)` for j = k, k + 1, ..., k + n - 1, ascending: the bits, or the error of the first failing
j. One pass over the listed elements, which stand in rising order. DESIGN CHOICE: an element at NMAX = 64800 or above, which
MAP reaches with a CURSOR above 64800, is never listed and raises ERR_UNDEF of its index (log 18). -/
def readBitsFrom : Memory → Nat → Nat → Except CmdError (List Bool)
  | _, _, 0 => .ok []
  | [], k, _ + 1 => .error (.undef k)
  | (i, v) :: rest, k, n + 1 =>
    if i < k then readBitsFrom rest k (n + 1)
    else if i = k then
      match bitOf k v with
      | .error e => .error e
      | .ok b =>
        match readBitsFrom rest (k + 1) n with
        | .error e => .error e
        | .ok bs => .ok (b :: bs)
    else .error (.undef k)

/-- `b_k <- bitread(k)` for k in 0..n-1, ascending; the first failing k is reported. -/
def readBits (m : Memory) (n : Nat) : Except CmdError (List Bool) := readBitsFrom m 0 n

/-- Elements `base`, `base + 1`, ... hold the bits `bs`, valid. -/
def HoldsBits (m : Memory) (base : Nat) (bs : List Bool) : Prop :=
  ∀ j (h : j < bs.length), m.elem (base + j) = some (bitByte bs[j])

/-- Element k fails the checked read with the error `e` (00_scope.md R12): ERR_UNDEF if it is invalid, ERR_DATA if it
is above 1. -/
def FailsAt (m : Memory) (k : Nat) (e : CmdError) : Prop :=
  (m.elem k = none ∧ e = .undef k) ∨ ∃ v, m.elem k = some v ∧ 1 < v.toNat ∧ e = .data k

/-! ### The host's addresses (10_state.md R31, 20_memory.md R84 to R90) -/

/-- What answers at an address. -/
inductive Target where
  | ctrl
  | status
  | cmd
  | cfg0
  | actCfg
  | cursor
  | outReq
  | outCount
  | outMod
  | crcValue
  | puncCount
  | removedCount
  | kSig (r : Rec)
  | nFec (r : Rec)
  | nSym (r : Rec)
  | nSymPay
  | schedLen (r : Rec)
  | errInfo
  | bchGen (w : Nat)
  | field (r : Rec) (i : Nat)
  | fbElems (w : Nat)
  | fbPacked (w : Nat)
  | ob (i : Nat)
  | reserved
  deriving DecidableEq, Repr

/-- The register or window that contains the aligned address `a` (10_state.md R31; windows 20_memory.md R84 to
R87; everything else is reserved, R90). -/
def targetOf (a : Nat) : Target :=
  if a = 0x00000 then .ctrl
  else if a = 0x00004 then .status
  else if a = 0x00008 then .cmd
  else if a = 0x0000C then .cfg0
  else if a = 0x00010 then .actCfg
  else if a = 0x00014 then .cursor
  else if a = 0x00018 then .outReq
  else if a = 0x0001C then .outCount
  else if a = 0x00020 then .outMod
  else if a = 0x00024 then .crcValue
  else if a = 0x00028 then .puncCount
  else if a = 0x0002C then .removedCount
  else if a = 0x00030 then .kSig .pre
  else if a = 0x00034 then .kSig .post
  else if a = 0x00038 then .nFec .pre
  else if a = 0x0003C then .nFec .post
  else if a = 0x00040 then .nSym .pre
  else if a = 0x00044 then .nSym .post
  else if a = 0x00048 then .nSymPay
  else if a = 0x0004C then .schedLen .pre
  else if a = 0x00050 then .schedLen .post
  else if a = 0x00054 then .errInfo
  else if 0x00060 ≤ a ∧ a < 0x00078 then .bchGen ((a - 0x00060) / 4)
  else if 0x01000 ≤ a ∧ a < 0x02000 then .field .pre ((a - 0x01000) / 4)
  else if 0x02000 ≤ a ∧ a < 0x03000 then .field .post ((a - 0x02000) / 4)
  else if 0x10000 ≤ a ∧ (a - 0x10000) / 4 < 16200 then .fbElems ((a - 0x10000) / 4)
  else if 0x20000 ≤ a ∧ (a - 0x20000) / 4 < 2025 then .fbPacked ((a - 0x20000) / 4)
  else if 0x40000 ≤ a ∧ (a - 0x40000) / 4 < 32400 then .ob ((a - 0x40000) / 4)
  else .reserved

end Sys2Proof.Machine
end

