-- ==== Sys2Proof/Machine/Flags.lean ====
section
/-! DEFINITION. The status flags as the host sees them: STATUS.STATE, the STATUS and CTRL words, and the IRQ line
(10_state.md R32 to R37, R60; 47_assembler.md R300). -/

namespace Sys2Proof.Machine

open Sys2Proof

/-- The STATE codes of a command (47_assembler.md R300). `inter`: ACTCFG.L1_MOD is 2 or 3. -/
def stageCodes (inter : Bool) : Instr → List (BitVec 4)
  | .nop => [0]
  | .configure => [10]
  | .softReset => [0]
  | .clear => [0]
  | .packPre => [1]
  | .packPost => [1]
  | .crcAppend => [2]
  | .padPre => [3]
  | .padPost => [3]
  | .bchEncodePre => [4]
  | .bchEncodePost => [4]
  | .ldpcEncodePre => [5]
  | .ldpcEncodePost => [5]
  | .puncturePre => [6]
  | .puncturePost => [6]
  | .interleavePay => [7]
  | .interleavePost => [7]
  | .mapPay => [8, 9]
  | .mapPre => [8, 9]
  | .mapPost => [8, 9]
  | .assemblePre => [1, 2, 3, 4, 5, 6, 8, 9]
  | .assemblePost => if inter then [1, 2, 3, 4, 5, 6, 7, 8, 9] else [1, 2, 3, 4, 5, 6, 8, 9]
  | .payload => [7, 8, 9]

/-- The codes a STATE read may return while the latched word runs (10_state.md R37). R300 names none for an
illegal word: any code that is ever read (log 6). -/
def runningCodes (s : State) : List (BitVec 4) :=
  match decode s.latch with
  | some i => stageCodes (l1Interleaved s.actCfg) i
  | none => [0, 1, 2, 3, 4, 5, 6, 7, 8, 9, 10]

/-- STATUS.STATE: 0 while BUSY = 0; while BUSY = 1 one of the running command's codes, "Which one is
unspecified" (10_state.md R37; log 6). -/
def stageField (s : State) : BitVec 4 :=
  if s.busy then
    (runningCodes s).getD (Config.freeStage s.draws % (runningCodes s).length) 0
  else 0

/-- One bit of a register. -/
def bit1 (b : Bool) : BitVec 1 := if b then 1 else 0

/-- The STATUS word (10_state.md R33). -/
def statusWord (s : State) : Word :=
  0#12 ++ stageField s ++ s.errCode ++ 0#4 ++ bit1 s.configured ++ bit1 s.err ++ bit1 s.done ++ bit1 s.busy

/-- The CTRL word (10_state.md R32). -/
def ctrlWord (s : State) : Word := 0#30 ++ bit1 s.ieErr ++ bit1 s.ieDone

/-- The IRQ line (10_state.md R60, 60_exceptions.md R337). -/
def irq (s : State) : Bool := (s.done && s.ieDone) || (s.err && s.ieErr)

end Sys2Proof.Machine
end

