-- ==== Sys2Proof/Machine/Bus.lean ====
section
/-! DEFINITION. The host's accesses (20_memory.md R81 to R90) and where they stop (60_exceptions.md R339, R340). -/

namespace Sys2Proof.Machine

open Sys2Proof

/-- BCH_GEN_w, for w = 0..5: `V[191 - 32w : 160 - 32w]` with `V = GEN * 2^24` (42_bch.md R192). -/
def bchGenWord (gen : BitVec 168) (w : Nat) : Word :=
  ((gen.setWidth 192) <<< 24).extractLsb' (160 - 32 * w) 32

/-- The element window's word w: element 4w + k in bits [31-8k : 24-8k] (20_memory.md R84). -/
def elemsWord (m : Memory) (w : Nat) : Word :=
  m.value (4 * w) ++ m.value (4 * w + 1) ++ m.value (4 * w + 2) ++ m.value (4 * w + 3)

/-- The packed window's word w: bit 31-k is `FB[32w+k] & 1`, 0 for an element with VALID = 0
(20_memory.md R85). -/
def packedWord (m : Memory) (w : Nat) : Word :=
  BitVec.ofNat 32 (bitsToNat ((List.range 32).map (fun k => (m.value (32 * w + k)).getLsbD 0)))

/-- `MemRead` of what answers (10_state.md R31, 20_memory.md R84 to R90): the word, no side effect (R89). -/
def readTarget (s : State) : Target → Word
  | .ctrl => ctrlWord s
  | .status => statusWord s
  | .cmd => 0
  | .cfg0 => s.cfg0.setWidth 32
  | .actCfg => s.actCfg.setWidth 32
  | .cursor => s.cursor.setWidth 32
  | .outReq => s.outReq.setWidth 32
  | .outCount => s.outCount.setWidth 32
  | .outMod => s.outMod.setWidth 32
  | .crcValue => s.crcValue
  | .puncCount => s.puncCount.setWidth 32
  | .removedCount => s.removedCount.setWidth 32
  | .kSig r => (s.store.regs.kSig.get r).setWidth 32
  | .nFec r => (s.store.regs.nFec.get r).setWidth 32
  | .nSym r => (s.store.regs.nSym.get r).setWidth 32
  | .nSymPay => s.store.regs.nSymPay.setWidth 32
  | .schedLen r => (s.store.regs.schedLen.get r).setWidth 32
  | .errInfo => s.errInfo
  | .bchGen w => bchGenWord s.store.gen w
  | .field r i => (s.slots.get r).read i
  | .fbElems w => elemsWord s.fb w
  | .fbPacked w => packedWord s.fb w
  | .ob i => s.ob.read i
  | .reserved => 0

/-- `MemWrite` of `v` to what answers, while the access is allowed (10_state.md R32 to R42, R52; 20_memory.md R84
to R90; 40_control.md R140). A write to a read-only register or a reserved address is ignored. -/
def writeTarget (s : State) (v : Word) : Target → State
  | .ctrl => { s with ieDone := v.getLsbD 0, ieErr := v.getLsbD 1 }
  | .status => acknowledge v s
  | .cmd => issue v s
  | .cfg0 => { s with cfg0 := v.setWidth 15 }
  | .actCfg => s
  | .cursor => { s with cursor := v.setWidth 17 }
  | .outReq => { s with outReq := v.setWidth 16 }
  | .outCount => s
  | .outMod => s
  | .crcValue => s
  | .puncCount => s
  | .removedCount => s
  | .kSig _ => s
  | .nFec _ => s
  | .nSym _ => s
  | .nSymPay => s
  | .schedLen _ => s
  | .errInfo => s
  | .bchGen _ => s
  | .field r i => { s with slots := s.slots.set r ((s.slots.get r).write i [v]) }
  | .fbElems w =>
    { s with fb := s.fb.write (4 * w) [v.extractLsb' 24 8, v.extractLsb' 16 8, v.extractLsb' 8 8, v.extractLsb' 0 8] }
  | .fbPacked w => { s with fb := s.fb.writeBits (32 * w) (msbBits 32 v) }
  | .ob _ => s
  | .reserved => s

/-- "While STATUS.BUSY = 1 the host may only read STATUS, write STATUS, read CTRL and write CTRL"
(60_exceptions.md R339, 70_reset_and_hazards.md R377; log 12). -/
def allowedWhileBusy : Target → Bool
  | .ctrl => true
  | .status => true
  | _ => false

/-- The host's read of what answers. A STATUS read while BUSY = 1 draws a STATE code (log 6). -/
def hostRead (s : State) (t : Target) : State :=
  { s with
    readData := readTarget s t
    draws := if s.busy && t == .status then s.draws + 1 else s.draws }

/-- One host access: refused if it is not admitted (60_exceptions.md R340; before the hazard, log 11), a hazard if
the engine is busy and the target is not STATUS or CTRL (R339), else performed. -/
def hostAccess (a : Access) (s : State) : Result :=
  if a.admitted then
    if s.busy && !allowedWhileBusy (targetOf a.addr) then .fault .hostHazard
    else
      match a.op with
      | .read => .next (hostRead s (targetOf a.addr))
      | .write v => .next (writeTarget s v (targetOf a.addr))
  else .refused .accessNotAdmitted

end Sys2Proof.Machine
end

