-- ==== Sys2Proof/Machine/Control.lean ====
section
/-! DEFINITION. NOP, CLEAR and SOFT_RESET (40_control.md R142, R149, R150). CONFIGURE stands in Configure.lean. -/

namespace Sys2Proof.Machine

open Sys2Proof

/-- NOP (40_control.md R142): the completion bits only. -/
def execNop (s : State) : Result := runAlways (fun t => .ok t) s

/-- CLEAR (40_control.md R149): every FB element invalid, CURSOR 0. -/
def execClear (s : State) : Result := runAlways (fun t => .ok { t with fb := Memory.invalid, cursor := 0 }) s

/-- SOFT_RESET (40_control.md R150): "the reset of ... rule R370, then STATUS.DONE <- 1". -/
def execSoftReset (s : State) : Result := runAlways (fun t => .ok (resetCore t)) s

end Sys2Proof.Machine
end

