-- ==== Sys2Proof/Machine/Configure.lean ====
section
/-! DEFINITION. CONFIGURE (40_control.md R143 to R148): the eleven checks, the derived parameters
(44_puncture.md R230 to R235), the BCH generator (42_bch.md R190 to R192) and the LDPC schedule (43_ldpc.md R210 to
R212). Every function is of the parameters and the 15-bit word `cfg` alone. -/

namespace Sys2Proof.Machine

open Sys2Proof

/-! ### Polynomials over GF(2) as natural numbers (00_scope.md R13) -/

/-- Carry-less multiplication. -/
def gf2Mul (a b : Nat) : Nat :=
  (List.range (b.log2 + 1)).foldl (fun acc i => if b.testBit i then acc ^^^ (a <<< i) else acc) 0

/-- The degree of a polynomial that is not 0. -/
def gf2Degree (a : Nat) : Nat := a.log2

/-- The generator g: the product of the factors (42_bch.md R191). -/
def bchGenerator (p : Params) : Nat := p.bchFactors.foldl gf2Mul 1

/-- GEN: g without its x^168 term (42_bch.md R192). -/
def genOf (p : Params) : BitVec 168 := BitVec.ofNat 168 (bchGenerator p)

/-! ### Lengths (00_scope.md R17, 44_puncture.md R230 to R235) -/

/-- K_LDPC(rec) = K_BCH(rec) + 168. -/
def kLdpcOf (p : Params) (r : Rec) : Nat := p.kBch.get r + nBchParity

/-- PBITS(rec) = N_LDPC_SIG - K_LDPC(rec). -/
def pBitsOf (p : Params) (r : Rec) : Nat := p.nLdpcSig - kLdpcOf p r

/-- q(rec) = PBITS(rec) / 360. -/
def qOf (p : Params) (r : Rec) : Nat := pBitsOf p r / grp

/-- EXPLEN(rec, cfg). -/
def expLenOf (p : Params) (cfg : BitVec 15) (r : Rec) : Nat := (p.expLen.get r).at cfg

/-- SCHEMA(rec, cfg), the field widths. -/
def schemaOf (p : Params) (cfg : BitVec 15) (r : Rec) : List Nat := (p.schema.get r).at cfg

/-- KSIG(rec) = EXPLEN(rec, cfg) + 32 (41_pack_crc.md R162). -/
def kSigOf (p : Params) (cfg : BitVec 15) (r : Rec) : Nat := expLenOf p cfg r + 32

/-- η(rec): 1 for PRE, η(L1_MOD) for POST (44_puncture.md R230). -/
def etaOf (cfg : BitVec 15) : Rec → Nat
  | .pre => eta .bpsk
  | .post => eta (l1Mod cfg)

/-- PUNC_TEMP(rec, KSIG(rec), cfg), where it is defined (44_puncture.md R231). -/
def puncTempOf (p : Params) (cfg : BitVec 15) (r : Rec) : Option Nat :=
  (p.puncTemp.get r).at (kSigOf p cfg r, cfg)

/-- F(rec): 1 for PRE, FFT_FACTOR(FFT) for POST, where it is defined (44_puncture.md R233, R235). -/
def framingOf (p : Params) (cfg : BitVec 15) : Rec → Option Nat
  | .pre => some 1
  | .post =>
    match p.fftFactor.at (cfgFft cfg) with
    | some .one => some 1
    | some .two => some 2
    | none => none

/-- N_temp(rec) (44_puncture.md R232), given PUNC_TEMP. -/
def nTempOf (p : Params) (cfg : BitVec 15) (r : Rec) (puncTemp : Nat) : Nat :=
  kSigOf p cfg r + nBchParity + pBitsOf p r - puncTemp

/-- N_FEC(rec): N_temp rounded up to a multiple of η(rec) * F(rec) (44_puncture.md R233). -/
def nFecRound (p : Params) (cfg : BitVec 15) (r : Rec) (puncTemp framing : Nat) : Nat :=
  ceilDiv (nTempOf p cfg r puncTemp) (etaOf cfg r * framing) * (etaOf cfg r * framing)

/-- The bits that rounding adds: N_FEC(rec) - N_temp(rec) (44_puncture.md R234). -/
def roundingOf (p : Params) (cfg : BitVec 15) (r : Rec) (puncTemp framing : Nat) : Nat :=
  nFecRound p cfg r puncTemp framing - nTempOf p cfg r puncTemp

/-- N_FEC(rec) under a configuration that passes check 9. -/
def nFecOf (p : Params) (cfg : BitVec 15) (r : Rec) : Nat :=
  nFecRound p cfg r ((puncTempOf p cfg r).getD 0) ((framingOf p cfg r).getD 1)

/-- N_punc(rec) = PUNC_TEMP - (N_FEC - N_temp) under a configuration that passes check 9
(44_puncture.md R234). -/
def nPuncOf (p : Params) (cfg : BitVec 15) (r : Rec) : Nat :=
  (puncTempOf p cfg r).getD 0 - roundingOf p cfg r ((puncTempOf p cfg r).getD 0) ((framingOf p cfg r).getD 1)

/-- NSYM(rec) = N_FEC(rec) / η(rec) (00_scope.md R17). -/
def nSymOf (p : Params) (cfg : BitVec 15) (r : Rec) : Nat := nFecOf p cfg r / etaOf cfg r

/-- NSYM_PAY = N_FRAME(fs) / η(mp) (40_control.md R146). -/
def nSymPayOf (cfg : BitVec 15) : Nat := nFrameOf (cfgFsize cfg) / eta (payMod cfg)

/-! ### The LDPC schedule (43_ldpc.md R211) -/

/-- The entries of shift n of row r: `((a + n * q) mod PBITS, 360 r + n)` for each offset a in order. -/
def shiftEntries (q pBits : Nat) (row : BaseRow) (r n : Nat) : List (Nat × Nat) :=
  row.offsets.map (fun a => ((a + n * q) % pBits, grp * r + n))

/-- The entries of row r: its 360 shifts in order. -/
def rowEntries (q pBits : Nat) (row : BaseRow) (r : Nat) : List (Nat × Nat) :=
  (List.range grp).flatMap (shiftEntries q pBits row r)

/-- The entries of the rows from number r on. -/
def scheduleFrom (q pBits : Nat) (r : Nat) : List BaseRow → List (Nat × Nat)
  | [] => []
  | row :: rows => rowEntries q pBits row r ++ scheduleFrom q pBits (r + 1) rows

/-- SCHED(rec). -/
def scheduleOf (p : Params) (r : Rec) : List (Nat × Nat) :=
  scheduleFrom (qOf p r) (pBitsOf p r) 0 (p.ldpcBase.get r)

/-! ### Well-formedness of tables -/

/-- LDPC_BASE(rec) is well-formed (43_ldpc.md R210): ROWS(rec) rows, each with 1 to 12 offsets, as many as its
count says (log 13), each less than PBITS(rec). -/
def baseWf (p : Params) (r : Rec) : Bool :=
  (p.ldpcBase.get r).length == kLdpcOf p r / grp &&
  (p.ldpcBase.get r).all (fun row =>
    decide (1 ≤ row.count) && decide (row.count ≤ 12) && row.offsets.length == row.count &&
    row.offsets.all (fun a => decide (a < pBitsOf p r)))

/-- A table set is well-formed for C columns of R rows (45_interleave.md R260): lists of length C, every twist
less than R, DM a permutation of 0 .. C-1. -/
def tableSetWf (c r : Nat) (t : TableSet) : Bool :=
  t.tw.length == c && t.dm.length == c && t.tw.all (fun x => decide (x < r)) &&
  t.dm.all (fun x => decide (x < c)) && decide t.dm.Nodup

/-- TABLESET(mp, rt, fs), where defined (45_interleave.md R260). -/
def payTablesOf (p : Params) (cfg : BitVec 15) : Option TableSet :=
  p.tableSet.at (payMod cfg, cfgRate cfg, cfgFsize cfg)

/-- L1_TABLESET(lm), where defined (45_interleave.md R261). -/
def l1TablesOf (p : Params) (cfg : BitVec 15) : Option TableSet := p.l1TableSet.at (l1Mod cfg)

/-- The column count of the L1-post interleaver, C = 2 η(lm) (45_interleave.md R261). -/
def l1Cols (cfg : BitVec 15) : Nat := 2 * eta (l1Mod cfg)

/-- The column count of the payload interleaver, COLS(mp, fs) (45_interleave.md R262). -/
def payCols (cfg : BitVec 15) : Nat := cols (payMod cfg) (cfgFsize cfg)

/-! ### The checks (40_control.md R145) -/

/-- Both records. -/
def bothRecs (f : Rec → Bool) : Bool := f .pre && f .post

/-- Check 1: pm <= 3. -/
def check1 (cfg : BitVec 15) : Bool := decide ((cfgPlpMod cfg).toNat ≤ 3)

/-- Check 2: lm <= 3. -/
def check2 (cfg : BitVec 15) : Bool := decide ((cfgL1Mod cfg).toNat ≤ 3)

/-- Check 3: VALID_RATE(fs, rt). -/
def check3 (p : Params) (cfg : BitVec 15) : Bool := p.validRate.at (cfgFsize cfg, cfgRate cfg)

/-- Check 4: a payload other than QPSK has a well-formed table set. -/
def check4 (p : Params) (cfg : BitVec 15) : Bool :=
  payMod cfg == .qpsk ||
  match payTablesOf p cfg with
  | none => false
  | some t => tableSetWf (payCols cfg) (nFrameOf (cfgFsize cfg) / payCols cfg) t

/-- Check 5: BCH_FACTORS (42_bch.md R190). -/
def check5 (p : Params) : Bool :=
  p.bchFactors.length == 12 &&
  p.bchFactors.all (fun f => decide (f ≠ 0) && gf2Degree f == 14 && f.testBit 0) &&
  gf2Degree (bchGenerator p) == 168

/-- Check 6: the LDPC code's sizes and base table (43_ldpc.md R210). -/
def check6 (p : Params) : Bool :=
  bothRecs (fun r =>
    kLdpcOf p r % grp == 0 && decide (p.nLdpcSig ≤ nMax) && decide (0 < pBitsOf p r) && pBitsOf p r % grp == 0 &&
    baseWf p r)

/-- Check 7: PUNC_ORDER has distinct entries, each less than q (44_puncture.md R236). -/
def check7 (p : Params) : Bool :=
  bothRecs (fun r => decide (p.puncOrder.get r).Nodup && (p.puncOrder.get r).all (fun g => decide (g < qOf p r)))

/-- Check 8: the schema and KSIG (41_pack_crc.md R160, R162). -/
def check8 (p : Params) (cfg : BitVec 15) : Bool :=
  bothRecs (fun r =>
    decide ((schemaOf p cfg r).length ≤ nfMax) &&
    (schemaOf p cfg r).all (fun w => decide (1 ≤ w) && decide (w ≤ 32)) &&
    decide (kSigOf p cfg r ≤ p.kBch.get r))

/-- Check 9: the puncture arithmetic (44_puncture.md R231 to R235). `0 <= N_punc` says that rounding adds at most
PUNC_TEMP bits (log 14). -/
def check9 (p : Params) (cfg : BitVec 15) : Bool :=
  bothRecs (fun r =>
    match framingOf p cfg r, puncTempOf p cfg r with
    | some f, some t =>
      decide (t ≤ pBitsOf p r) &&
      decide (roundingOf p cfg r t f ≤ t) &&
      decide (nPuncOf p cfg r ≤ pBitsOf p r) &&
      decide (ceilDiv (nPuncOf p cfg r) grp ≤ (p.puncOrder.get r).length) &&
      decide (nSymOf p cfg r ≤ obSize)
    | _, _ => false)

/-- Check 10: a 16-QAM or 64-QAM L1-post has a well-formed table set. -/
def check10 (p : Params) (cfg : BitVec 15) : Bool :=
  !l1Interleaved cfg ||
  match l1TablesOf p cfg with
  | none => false
  | some t => nFecOf p cfg .post % l1Cols cfg == 0 && tableSetWf (l1Cols cfg) (nFecOf p cfg .post / l1Cols cfg) t

/-- Check 11: the payload frame is a whole number of symbols that fit OB. -/
def check11 (cfg : BitVec 15) : Bool :=
  nFrameOf (cfgFsize cfg) % eta (payMod cfg) == 0 && decide (nSymPayOf cfg ≤ obSize)

/-- The checks with their numbers, in order. -/
def configChecks (p : Params) (cfg : BitVec 15) : List (Nat × Bool) :=
  [(1, check1 cfg), (2, check2 cfg), (3, check3 p cfg), (4, check4 p cfg), (5, check5 p), (6, check6 p),
    (7, check7 p), (8, check8 p cfg), (9, check9 p cfg), (10, check10 p cfg), (11, check11 cfg)]

/-- The number of the first entry that does not hold. -/
def firstFailing : List (Nat × Bool) → Option Nat
  | [] => none
  | (n, ok) :: rest => if ok then firstFailing rest else some n

/-- "The first that fails ends the command" (40_control.md R145). -/
def failedCheck (p : Params) (cfg : BitVec 15) : Option Nat := firstFailing (configChecks p cfg)

/-! ### Derived state (40_control.md R146) -/

/-- DP's values for one record. -/
def recParamsOf (p : Params) (cfg : BitVec 15) (r : Rec) : RecParams :=
  { kSig := kSigOf p cfg r
    kBch := p.kBch.get r
    kLdpc := kLdpcOf p r
    pBits := pBitsOf p r
    q := qOf p r
    eta := etaOf cfg r
    nFec := nFecOf p cfg r
    nPunc := nPuncOf p cfg r
    nSym := nSymOf p cfg r
    puncOrder := p.puncOrder.get r }

/-- DP. -/
def derivedOf (p : Params) (cfg : BitVec 15) : DerivedParams :=
  { recs := PerRec.of (recParamsOf p cfg)
    nFrame := nFrameOf (cfgFsize cfg)
    etaPay := eta (payMod cfg)
    payTables := if payMod cfg = .qpsk then none else payTablesOf p cfg
    l1Tables := if l1Interleaved cfg then l1TablesOf p cfg else none }

/-- The derived registers (10_state.md R46, R47). -/
def regsOf (p : Params) (cfg : BitVec 15) : DerivedRegs :=
  { kSig := PerRec.of (fun r => BitVec.ofNat 16 (kSigOf p cfg r))
    nFec := PerRec.of (fun r => BitVec.ofNat 16 (nFecOf p cfg r))
    nSym := PerRec.of (fun r => BitVec.ofNat 16 (nSymOf p cfg r))
    nSymPay := BitVec.ofNat 16 (nSymPayOf cfg)
    schedLen := PerRec.of (fun r => BitVec.ofNat 20 (scheduleOf p r).length) }

/-- All that a successful CONFIGURE computes. -/
def storeOf (p : Params) (cfg : BitVec 15) : ConfigStore :=
  { gen := genOf p
    sched := PerRec.of (scheduleOf p)
    dp := derivedOf p cfg
    regs := regsOf p cfg }

/-- The commit of a successful CONFIGURE (40_control.md R147). -/
def commitConfig (s : State) : State :=
  { s with store := storeOf s.params s.cfg0, actCfg := s.cfg0, configured := true }

/-- CONFIGURE (40_control.md R143 to R148). A failed one also clears CONFIGURED (R147). -/
def execConfigure (s : State) : Result :=
  match failedCheck s.params s.cfg0 with
  | none => .next (finish (commitConfig s))
  | some n => .next (raise (.config n) { s with configured := false })

end Sys2Proof.Machine
end

