-- ==== Sys2Proof/Machine/PackCrc.lean ====
section
/-! DEFINITION. PACK, CRC_APPEND and PAD (41_pack_crc.md R160 to R175). -/

namespace Sys2Proof.Machine

open Sys2Proof

/-! ### PACK -/

/-- The bits of fields i, i + 1, ... of widths `ws`, each `FIELD[i] mod 2^w` serialised MSB-first
(41_pack_crc.md R161, R163). -/
def packFrom (fields : WordRam) (i : Nat) : List Nat → List Bool
  | [] => []
  | w :: ws => msbBits w (fields.read i) ++ packFrom fields (i + 1) ws

/-- The packed bits of a record. -/
def packedBits (ws : List Nat) (fields : WordRam) : List Bool := packFrom fields 0 ws

/-- PACK.rec (41_pack_crc.md R161). -/
def packBody (r : Rec) : Body := fun s =>
  let ws := schemaOf s.params s.actCfg r
  if ws.sum ≠ expLenOf s.params s.actCfg r then .error (.len ws.sum)
  else
    .ok { s with
      fb := Memory.invalid.writeBits 0 (packedBits ws (s.slots.get r))
      cursor := BitVec.ofNat 17 ws.sum }

/-- PACK.PRE. -/
def execPackPre (s : State) : Result := runConfigured (packBody .pre) s

/-- PACK.POST. -/
def execPackPost (s : State) : Result := runConfigured (packBody .post) s

/-! ### CRC-32 -/

/-- One bit into the CRC register (41_pack_crc.md R165). -/
def crcStep (c : Word) (b : Bool) : Word :=
  if c.getLsbD 31 ^^ b then (c <<< 1) ^^^ 0x04C11DB7#32 else c <<< 1

/-- `crc32(b)`: all-ones preset, MSB-first, no reflection, no final XOR (41_pack_crc.md R165). -/
def crc32 (bs : List Bool) : Word := bs.foldl crcStep 0xFFFFFFFF#32

/-- CRC_APPEND (41_pack_crc.md R166, R168). -/
def crcBody : Body := fun s =>
  let n := s.cursor.toNat
  if nMax < n + 32 then .error (.len n)
  else
    match readBits s.fb n with
    | .error e => .error e
    | .ok bs =>
      .ok { s with
        fb := s.fb.writeBits n (msbBits 32 (crc32 bs))
        cursor := BitVec.ofNat 17 (n + 32)
        crcValue := crc32 bs }

/-- CRC_APPEND, which "does not need CONFIGURED". -/
def execCrcAppend (s : State) : Result := runAlways crcBody s

/-! ### PAD -/

/-- PAD.rec (41_pack_crc.md R173). -/
def padBody (r : Rec) : Body := fun s =>
  let n := s.cursor.toNat
  let d := s.store.dp.recs.get r
  if n ≠ d.kSig then .error (.len n)
  else
    .ok { s with
      fb := s.fb.writeBits d.kSig (List.replicate (d.kBch - d.kSig) false)
      cursor := BitVec.ofNat 17 d.kBch }

/-- PAD.PRE. -/
def execPadPre (s : State) : Result := runConfigured (padBody .pre) s

/-- PAD.POST. -/
def execPadPost (s : State) : Result := runConfigured (padBody .post) s

end Sys2Proof.Machine
end

