-- ==== Sys2Proof/Machine/Bch.lean ====
section
/-! DEFINITION. BCH_ENCODE (42_bch.md R193, R194). The generator is built by CONFIGURE. -/

namespace Sys2Proof.Machine

open Sys2Proof

/-- One message bit into the 168-bit register (42_bch.md R193). -/
def bchStep (gen : BitVec 168) (reg : BitVec 168) (m : Bool) : BitVec 168 :=
  if m ^^ reg.getLsbD 167 then (reg <<< 1) ^^^ gen else reg <<< 1

/-- The register after the whole message. -/
def bchRegister (gen : BitVec 168) (ms : List Bool) : BitVec 168 := ms.foldl (bchStep gen) 0

/-- The parity `p_0, ..., p_167`: "read MSB-first over the defined parity length" (42_bch.md R193). -/
def bchParity (gen : BitVec 168) (ms : List Bool) : List Bool := msbBits nBchParity (bchRegister gen ms)

/-- BCH_ENCODE.rec (42_bch.md R194). -/
def bchBody (r : Rec) : Body := fun s =>
  let n := s.cursor.toNat
  let k := (s.store.dp.recs.get r).kBch
  if n ≠ k then .error (.len n)
  else
    match readBits s.fb k with
    | .error e => .error e
    | .ok ms =>
      .ok { s with
        fb := s.fb.writeBits k (bchParity s.store.gen ms)
        cursor := BitVec.ofNat 17 (k + nBchParity) }

/-- BCH_ENCODE.PRE. -/
def execBchEncodePre (s : State) : Result := runConfigured (bchBody .pre) s

/-- BCH_ENCODE.POST. -/
def execBchEncodePost (s : State) : Result := runConfigured (bchBody .post) s

end Sys2Proof.Machine
end

