-- ==== Sys2Proof/Machine/Ldpc.lean ====
section
/-! DEFINITION. LDPC_ENCODE (43_ldpc.md R214). The schedule is built by CONFIGURE. -/

namespace Sys2Proof.Machine

open Sys2Proof

/-- `p[SP] <- p[SP] xor m_SD` for one schedule entry. -/
def accumulateEntry (ms : List Bool) (p : List Bool) (e : Nat × Nat) : List Bool :=
  p.modify e.1 (fun b => b ^^ ms.getD e.2 false)

/-- The accumulate pass over a zeroed parity region (43_ldpc.md R214). -/
def accumulate (sched : List (Nat × Nat)) (ms : List Bool) (pBits : Nat) : List Bool :=
  sched.foldl (accumulateEntry ms) (List.replicate pBits false)

/-- The integrate pass, ascending: `p[j] <- p[j] xor p[j-1]`, given p[j-1] (false before p[0])
(43_ldpc.md R214). -/
def integrate (prev : Bool) : List Bool → List Bool
  | [] => []
  | b :: bs => (b ^^ prev) :: integrate (b ^^ prev) bs

/-- The LDPC parity of a message (43_ldpc.md R214). -/
def ldpcParity (sched : List (Nat × Nat)) (ms : List Bool) (pBits : Nat) : List Bool :=
  integrate false (accumulate sched ms pBits)

/-- LDPC_ENCODE.rec (43_ldpc.md R214). -/
def ldpcBody (r : Rec) : Body := fun s =>
  let n := s.cursor.toNat
  let d := s.store.dp.recs.get r
  if n ≠ d.kLdpc then .error (.len n)
  else
    match readBits s.fb d.kLdpc with
    | .error e => .error e
    | .ok ms =>
      .ok { s with
        fb := s.fb.writeBits d.kLdpc (ldpcParity (s.store.sched.get r) ms d.pBits)
        cursor := BitVec.ofNat 17 (d.kLdpc + d.pBits) }

/-- LDPC_ENCODE.PRE. -/
def execLdpcEncodePre (s : State) : Result := runConfigured (ldpcBody .pre) s

/-- LDPC_ENCODE.POST. -/
def execLdpcEncodePost (s : State) : Result := runConfigured (ldpcBody .post) s

end Sys2Proof.Machine
end

