-- ==== Sys2Proof/Machine/Puncture.lean ====
section
/-! DEFINITION. PUNCTURE (44_puncture.md R236 to R239). The lengths are computed by CONFIGURE. -/

namespace Sys2Proof.Machine

open Sys2Proof

/-- Whether parity bit j is in REMOVED(rec) (44_puncture.md R237). Bit j is member j / q of group j mod q
(R236): it goes if its group is one of the first G = N_punc div 360 of the order, or is the next one and j / q is
less than rem = N_punc mod 360. -/
def isPunctured (order : List Nat) (q nPunc j : Nat) : Bool :=
  (order.take (nPunc / grp)).contains (j % q) ||
  (order[nPunc / grp]? == some (j % q) && decide (j / q < nPunc % grp))

/-- The parity bits that stay, in ascending order; the list's first bit is parity bit j. -/
def keptFrom (order : List Nat) (q nPunc : Nat) (j : Nat) : List Bool → List Bool
  | [] => []
  | b :: bs =>
    if isPunctured order q nPunc j then keptFrom order q nPunc (j + 1) bs
    else b :: keptFrom order q nPunc (j + 1) bs

/-- The transmitted sequence of the codeword `bs` (44_puncture.md R238, `out`): the information bits, the BCH
parity (the padding between them dropped), and the parity bits that stay. -/
def punctured (d : RecParams) (bs : List Bool) : List Bool :=
  bs.take d.kSig ++ (bs.take d.kLdpc).drop d.kBch ++
    keptFrom d.puncOrder d.q d.nPunc 0 ((bs.drop d.kLdpc).take d.pBits)

/-- PUNCTURE.rec (44_puncture.md R238). -/
def punctureBody (r : Rec) : Body := fun s =>
  let n := s.cursor.toNat
  let d := s.store.dp.recs.get r
  if n ≠ s.params.nLdpcSig then .error (.len n)
  else
    match readBits s.fb s.params.nLdpcSig with
    | .error e => .error e
    | .ok bs =>
      .ok { s with
        fb := Memory.invalid.writeBits 0 (punctured d bs)
        cursor := BitVec.ofNat 17 d.nFec
        puncCount := BitVec.ofNat 16 d.nPunc
        removedCount := BitVec.ofNat 16 ((d.kBch - d.kSig) + d.nPunc) }

/-- PUNCTURE.PRE. -/
def execPuncturePre (s : State) : Result := runConfigured (punctureBody .pre) s

/-- PUNCTURE.POST. -/
def execPuncturePost (s : State) : Result := runConfigured (punctureBody .post) s

end Sys2Proof.Machine
end

