-- ==== Sys2Proof/Machine/Interleave.lean ====
section
/-! DEFINITION. INTERLEAVE (45_interleave.md R263 to R267). The table sets are selected by CONFIGURE. -/

namespace Sys2Proof.Machine

open Sys2Proof

/-- The input position that `grid[r][d]` takes: `d * R + ((r - TW[d]) mod R)` (45_interleave.md R263). -/
def gridSource (rows : Nat) (t : TableSet) (r d : Nat) : Nat :=
  d * rows + (r + (rows - t.tw.getD d 0 % rows)) % rows

/-- The input position that output position j takes. Output j is place j mod C of row j / C, and column d of a row
goes to place DM[d] (45_interleave.md R263). -/
def ilSource (rows columns : Nat) (t : TableSet) (j : Nat) : Nat :=
  gridSource rows t (j / columns) (t.dm.idxOf (j % columns))

/-- The permutation `IL(L, C, TW, DM)` of a sequence of length L, with R = L / C (45_interleave.md R263). -/
def interleaved (columns : Nat) (t : TableSet) (bs : List Bool) : List Bool :=
  let input := bs.toArray
  (List.range bs.length).map (fun j => input.getD (ilSource (bs.length / columns) columns t j) false)

/-- The permutation of the selected table set; where none is selected, the identity (45_interleave.md R267;
log 10). -/
def interleavedBy (columns : Nat) (t : Option TableSet) (bs : List Bool) : List Bool :=
  match t with
  | some t => interleaved columns t bs
  | none => bs

/-- INTERLEAVE.PAY (45_interleave.md R265). DP holds a payload table set unless the payload is QPSK, whose
permutation is the identity (R267). -/
def interleavePayBody : Body := fun s =>
  let n := s.cursor.toNat
  if n ≠ s.store.dp.nFrame then .error (.len n)
  else
    match readBits s.fb s.store.dp.nFrame with
    | .error e => .error e
    | .ok bs => .ok { s with fb := s.fb.writeBits 0 (interleavedBy (payCols s.actCfg) s.store.dp.payTables bs) }

/-- INTERLEAVE.PAY. -/
def execInterleavePay (s : State) : Result := runConfigured interleavePayBody s

/-- INTERLEAVE.POST (45_interleave.md R266). -/
def interleavePostBody : Body := fun s =>
  if !l1Interleaved s.actCfg then .error (.mode (cfgL1Mod s.actCfg))
  else
    let n := s.cursor.toNat
    let l := s.store.dp.recs.post.nFec
    if n ≠ l then .error (.len n)
    else
      match readBits s.fb l with
      | .error e => .error e
      | .ok bs => .ok { s with fb := s.fb.writeBits 0 (interleavedBy (l1Cols s.actCfg) s.store.dp.l1Tables bs) }

/-- INTERLEAVE.POST. -/
def execInterleavePost (s : State) : Result := runConfigured interleavePostBody s

end Sys2Proof.Machine
end

