-- ==== Sys2Proof/Machine/Mapper.lean ====
section
/-! DEFINITION. MAP and its emit step (46_mapper.md R280 to R291). -/

namespace Sys2Proof.Machine

open Sys2Proof

/-- `u_i = 1 - 2 y_i`: +1 for a 0 bit, -1 for a 1 bit (46_mapper.md R282). -/
def signOf (ys : List Bool) (i : Nat) : Int := if ys.getD i false then -1 else 1

/-- The integer coordinates (I, Q) of a symbol (46_mapper.md R282). -/
def point (m : Modulation) (ys : List Bool) : Int × Int :=
  let u := signOf ys
  match m with
  | .bpsk => (u 0, 0)
  | .qpsk => (u 0, u 1)
  | .qam16 => (u 0 * (2 + u 2), u 1 * (2 + u 3))
  | .qam64 => (u 0 * (4 + u 2 * (2 + u 4)), u 1 * (4 + u 3 * (2 + u 5)))
  | .qam256 => (u 0 * (8 + u 2 * (4 + u 4 * (2 + u 6))), u 1 * (8 + u 3 * (4 + u 5 * (2 + u 7))))

/-- The normalisation constant E, fixed per modulation: a symbol's value is (I + jQ) / sqrt(E) (46_mapper.md R282,
R287). -/
def energy : Modulation → Nat
  | .bpsk => 1
  | .qpsk => 2
  | .qam16 => 10
  | .qam64 => 42
  | .qam256 => 170

/-- The OB entry of a symbol (46_mapper.md R289): raw bits if OUTFMT = 1, else I in [31:16] and Q in [15:0] in
two's complement. -/
def entryOf (raw : Bool) (m : Modulation) (ys : List Bool) : Word :=
  if raw then BitVec.ofNat 32 (bitsToNat ys)
  else BitVec.ofInt 16 (point m ys).1 ++ BitVec.ofInt 16 (point m ys).2

/-- The first n groups of `size` consecutive bits (46_mapper.md R281). -/
def groupsOf (size : Nat) : Nat → List Bool → List (List Bool)
  | 0, _ => []
  | n + 1, bs => bs.take size :: groupsOf size n (bs.drop size)

/-- The entries of the first n symbols of a bit sequence. -/
def entriesOf (raw : Bool) (m : Modulation) (n : Nat) (bs : List Bool) : List Word :=
  (groupsOf (eta m) n bs).map (entryOf raw m)

/-- OUT_MOD: `mc | OUTFMT << 3` (46_mapper.md R290). -/
def outModOf (raw : Bool) (m : Modulation) : BitVec 4 := bit1 raw ++ modCode m

/-- MAP.sel with its emit step (46_mapper.md R290). R290's length check lets a CURSOR above NMAX through when η >= 4; the
read of element NMAX then raises ERR_UNDEF(64800), the model's choice (log 18). -/
def mapBody (sel : MapSel) : Body := fun s =>
  let n := s.cursor.toNat
  let m := mapMod s.actCfg sel
  if n % eta m ≠ 0 ∨ obSize < n / eta m then .error (.len n)
  else
    match readBits s.fb n with
    | .error e => .error e
    | .ok bs =>
      .ok { s with
        ob := s.ob.write 0 (entriesOf (cfgOutFmt s.actCfg) m (n / eta m) bs)
        outCount := BitVec.ofNat 16 (n / eta m)
        outMod := outModOf (cfgOutFmt s.actCfg) m }

/-- MAP.PAY. -/
def execMapPay (s : State) : Result := runConfigured (mapBody .pay) s

/-- MAP.PRE. -/
def execMapPre (s : State) : Result := runConfigured (mapBody .pre) s

/-- MAP.POST. -/
def execMapPost (s : State) : Result := runConfigured (mapBody .post) s

end Sys2Proof.Machine
end

