-- ==== Sys2Proof/Machine/Assembler.lean ====
section
/-! DEFINITION. ASSEMBLE and PAYLOAD (47_assembler.md R300 to R309): the stage bodies in sequence, as one command.
-/

namespace Sys2Proof.Machine

open Sys2Proof

/-- One stage after another; the first error ends the command. -/
def andThen (f g : Body) : Body := fun s =>
  match f s with
  | .error e => .error e
  | .ok t => g t

/-- The INTERLEAVE stage of ASSEMBLE: only for POST with L1_MOD in {2, 3} (47_assembler.md R301, R303). -/
def interleaveStage (r : Rec) : Body := fun s =>
  match r with
  | .pre => .ok s
  | .post => if l1Interleaved s.actCfg then interleavePostBody s else .ok s

/-- "SEL = 1 for PRE and SEL = 2 for POST" (47_assembler.md R303). -/
def mapSelOf : Rec → MapSel
  | .pre => .pre
  | .post => .post

/-- The stages after the output-size check, in the order of 47_assembler.md R303. -/
def assembleStages (r : Rec) : Body :=
  andThen (packBody r)
    (andThen crcBody
      (andThen (padBody r)
        (andThen (bchBody r)
          (andThen (ldpcBody r)
            (andThen (punctureBody r)
              (andThen (interleaveStage r) (mapBody (mapSelOf r))))))))

/-- ASSEMBLE.rec (47_assembler.md R303, R304). -/
def assembleBody (r : Rec) : Body := fun s =>
  if s.outReq.toNat ≠ (s.store.dp.recs.get r).nSym then .error (.outSize s.outReq)
  else assembleStages r s

/-- ASSEMBLE.PRE. -/
def execAssemblePre (s : State) : Result := runConfigured (assembleBody .pre) s

/-- ASSEMBLE.POST. -/
def execAssemblePost (s : State) : Result := runConfigured (assembleBody .post) s

/-- The end-of-frame step of PAYLOAD: "the frame is consumed" (47_assembler.md R307). -/
def consumeFrame : Body := fun s => .ok { s with fb := Memory.invalid, cursor := 0 }

/-- The fresh frame buffer PAYLOAD starts from: the frame's bits and nothing else (70_reset_and_hazards.md R374). -/
def freshFrame (bs : List Bool) : Memory := Memory.invalid.writeBits 0 bs

/-- PAYLOAD (47_assembler.md R307, 70_reset_and_hazards.md R374): the frame is read, checked, and its stages run on a fresh
frame buffer that holds it alone. DEDUCED (log 19): the frame is FB[0 .. L-1] as R307 reads it, which the host writes in
full (R373 step 5, R379). -/
def payloadBody : Body := fun s =>
  if s.outReq ≠ s.store.regs.nSymPay then .error (.outSize s.outReq)
  else
    match readBits s.fb s.store.dp.nFrame with
    | .error e => .error e
    | .ok bs =>
      andThen interleavePayBody (andThen (mapBody .pay) consumeFrame)
        { s with fb := freshFrame bs, cursor := BitVec.ofNat 17 s.store.dp.nFrame }

/-- PAYLOAD. -/
def execPayload (s : State) : Result := runConfigured payloadBody s

end Sys2Proof.Machine
end

