-- ==== Sys2Proof/Machine/Dispatch.lean ====
section
/-! DEFINITION. One arm per command: the engine's work on a latched command (40_control.md R141). -/

namespace Sys2Proof.Machine

open Sys2Proof

def exec (i : Instr) (s : State) : Host.Outcome State Fault Refusal :=
  match i with
  | .nop => Sys2Proof.Machine.execNop s
  | .configure => Sys2Proof.Machine.execConfigure s
  | .softReset => Sys2Proof.Machine.execSoftReset s
  | .clear => Sys2Proof.Machine.execClear s
  | .packPre => Sys2Proof.Machine.execPackPre s
  | .packPost => Sys2Proof.Machine.execPackPost s
  | .crcAppend => Sys2Proof.Machine.execCrcAppend s
  | .padPre => Sys2Proof.Machine.execPadPre s
  | .padPost => Sys2Proof.Machine.execPadPost s
  | .bchEncodePre => Sys2Proof.Machine.execBchEncodePre s
  | .bchEncodePost => Sys2Proof.Machine.execBchEncodePost s
  | .ldpcEncodePre => Sys2Proof.Machine.execLdpcEncodePre s
  | .ldpcEncodePost => Sys2Proof.Machine.execLdpcEncodePost s
  | .puncturePre => Sys2Proof.Machine.execPuncturePre s
  | .puncturePost => Sys2Proof.Machine.execPuncturePost s
  | .interleavePay => Sys2Proof.Machine.execInterleavePay s
  | .interleavePost => Sys2Proof.Machine.execInterleavePost s
  | .mapPay => Sys2Proof.Machine.execMapPay s
  | .mapPre => Sys2Proof.Machine.execMapPre s
  | .mapPost => Sys2Proof.Machine.execMapPost s
  | .assemblePre => Sys2Proof.Machine.execAssemblePre s
  | .assemblePost => Sys2Proof.Machine.execAssemblePost s
  | .payload => Sys2Proof.Machine.execPayload s

end Sys2Proof.Machine
end

