-- ==== Sys2Proof/Machine/Engine.lean ====
section
/-! DEFINITION. The engine step (40_control.md R141), how the next input acts (log 3), and the placing of a command
where the engine takes it from (log 4). -/

namespace Sys2Proof.Machine

open Sys2Proof

/-- The engine step of a busy core (40_control.md R141): decode LATCH; an illegal word raises ERR_ILLEGAL with the
whole word (30_encoding.md R114); a legal one runs. -/
def engineStep (s : State) : Result :=
  match decode s.latch with
  | some i => exec i s
  | none => .next (raise (.illegal s.latch) s)

/-- The engine's turn: it steps if BUSY = 1, else it "does nothing" (60_exceptions.md R349). -/
def engineTurn (s : State) : Result := if s.busy then engineStep s else .next s

/-- What an input does to the core. -/
def takeInput (i : Input) (s : State) : Result :=
  match i with
  | .bus a => hostAccess a s
  | .engine => engineTurn s
  | .reset => .next (resetCore s)

/-- `w` latched as an issued command, the engine's turn next (40_control.md R140; log 4). -/
def latchCommand (w : Word) (s : State) : State :=
  { s with latch := w, done := false, busy := true, inputs := .engine :: s.inputs }

end Sys2Proof.Machine
end

