-- ==== Sys2Proof/Machine/Step.lean ====
section
/-! DEFINITION. One step of the machine: the next input acts; when no input is left, the engine has its turn
(20_memory.md R91, 70_reset_and_hazards.md R386; log 3). -/

namespace Sys2Proof.Machine

open Sys2Proof

/-- One step. -/
def step (s : State) : Host.Outcome State Fault Refusal :=
  match s.inputs with
  | [] => engineTurn s
  | i :: rest => takeInput i { s with inputs := rest }

/-- `s` with the command word of `nbits` bits `w` where the engine takes its next command from: latched, BUSY = 1,
and the engine's turn next (log 4). -/
def State.withFetchWord (s : State) (nbits w : Nat) : State := latchCommand (BitVec.ofNat 32 (w % 2 ^ nbits)) s

end Sys2Proof.Machine
end

