-- ==== Sys2Proof/Safety.lean ====
section
/-! DEFINITION. What a state that a run can reach looks like (`State.Inv`), and what a run that does not stop is.
Claims use these words. -/

namespace Sys2Proof.Machine

open Sys2Proof

/-- Every buffer is in its canonical form (log 8). -/
def State.BuffersOk (s : State) : Prop :=
  s.fb.wf ∧ s.ob.wf obSize ∧ s.slots.pre.wf nfMax ∧ s.slots.post.wf nfMax

/-- The status bits agree with each other: BUSY excludes DONE and ERR (40_control.md R140), DONE excludes ERR
(R141), and ERRCODE and ERR_INFO are 0 while ERR = 0, ERRCODE one of 0x01 to 0x08 while ERR = 1 (10_state.md R33,
R35; 60_exceptions.md R331). -/
def State.StatusOk (s : State) : Prop :=
  (s.busy = true → s.done = false ∧ s.err = false) ∧
  (s.done = true → s.err = false) ∧
  (s.err = false → s.errCode = 0 ∧ s.errInfo = 0) ∧
  (s.err = true → 1 ≤ s.errCode.toNat ∧ s.errCode.toNat ≤ 8)

/-- "CONFIGURED = 1 means the tuple in ACTCFG and the derived registers is active" (10_state.md R36): ACTCFG passes
every check of 40_control.md R145 and the configuration store is what R146 computes from it. -/
def State.ConfigOk (s : State) : Prop :=
  s.configured = true → failedCheck s.params s.actCfg = none ∧ s.store = storeOf s.params s.actCfg

/-- The last output fits OB, and its MODCODE is one of the five (10_state.md R43, 46_mapper.md R290). -/
def State.OutputOk (s : State) : Prop := s.outCount.toNat ≤ obSize ∧ (s.outMod.extractLsb' 0 3).toNat ≤ 4

/-- The invariant of the model: it holds at reset and every step keeps it. -/
def State.Inv (s : State) : Prop := s.BuffersOk ∧ s.StatusOk ∧ s.ConfigOk ∧ s.OutputOk

/-- An access that the host contract allows in state `s` (60_exceptions.md R339, R340). -/
def AccessAllowed (s : State) (a : Access) : Prop :=
  a.admitted = true ∧ (s.busy = true → a.addr = 0x00000 ∨ a.addr = 0x00004)

/-- A run of `k` steps from `s` that does not stop. -/
def RunsFor (k : Nat) (s : State) : Prop := ∃ t, Sys2Proof.core.run k s = .next t

end Sys2Proof.Machine
end

