-- ==== Sys2Proof/Certificates/Slice0/Obligations.lean ====
section
/-! DEFINITION. The statements for the provers, from the numbered rules of spec/. First the words they share
(namespace Sys2Proof.Claims), then one definition `Obligations.<Name> : Prop` each. -/

namespace Sys2Proof.Claims

open Sys2Proof Sys2Proof.Machine

/-! ### The opcode map, written out (30_encoding.md R112) -/

/-- The "word" column of 30_encoding.md R112. -/
def tableWord : Instr → Word
  | .nop => 0x00000000#32
  | .configure => 0x01000000#32
  | .softReset => 0x02000000#32
  | .clear => 0x03000000#32
  | .packPre => 0x10000000#32
  | .packPost => 0x10100000#32
  | .crcAppend => 0x11000000#32
  | .padPre => 0x12000000#32
  | .padPost => 0x12100000#32
  | .bchEncodePre => 0x13000000#32
  | .bchEncodePost => 0x13100000#32
  | .ldpcEncodePre => 0x14000000#32
  | .ldpcEncodePost => 0x14100000#32
  | .puncturePre => 0x15000000#32
  | .puncturePost => 0x15100000#32
  | .interleavePay => 0x16000000#32
  | .interleavePost => 0x16100000#32
  | .mapPay => 0x17000000#32
  | .mapPre => 0x17100000#32
  | .mapPost => 0x17200000#32
  | .assemblePre => 0x20000000#32
  | .assemblePost => 0x20100000#32
  | .payload => 0x21000000#32

/-- The "cfg" column of 30_encoding.md R112. -/
def needsConfig : Instr → Bool
  | .nop => false
  | .configure => false
  | .softReset => false
  | .clear => false
  | .crcAppend => false
  | _ => true

/-- The form of each command for a record (30_encoding.md R113). -/
def packOf : Rec → Instr
  | .pre => .packPre
  | .post => .packPost

def padOf : Rec → Instr
  | .pre => .padPre
  | .post => .padPost

def bchOf : Rec → Instr
  | .pre => .bchEncodePre
  | .post => .bchEncodePost

def ldpcOf : Rec → Instr
  | .pre => .ldpcEncodePre
  | .post => .ldpcEncodePost

def punctureOf : Rec → Instr
  | .pre => .puncturePre
  | .post => .puncturePost

def assembleOf : Rec → Instr
  | .pre => .assemblePre
  | .post => .assemblePost

/-- MODCODE of a form of MAP, as a number of ACTCFG (30_encoding.md R118, 46_mapper.md R280). -/
def modCodeOf (cfg : BitVec 15) : MapSel → Nat
  | .pay => cfg.toNat / 16 % 8 + 1
  | .pre => 0
  | .post => cfg.toNat / 128 % 16

/-- 00_scope.md R15: the modulation of each MODCODE, and its bits per symbol. -/
def modulations : List (Modulation × Nat) := [(.bpsk, 1), (.qpsk, 2), (.qam16, 4), (.qam64, 6), (.qam256, 8)]

/-- OUT_MOD as 46_mapper.md R290 has it: the MODCODE in bits 2:0, OUTFMT in bit 3. -/
def outModValue (cfg : BitVec 15) (sel : MapSel) : Nat := modCodeOf cfg sel + (if cfg.getLsbD 14 then 8 else 0)

/-- The form of MAP for a SEL (30_encoding.md R113). -/
def mapOf : MapSel → Instr
  | .pay => .mapPay
  | .pre => .mapPre
  | .post => .mapPost

/-! ### How a command ends -/

/-- The command ends in error: "the engine performs these writes ... and no others" (60_exceptions.md R333). -/
def EndsInError (i : Instr) (s : State) (code : BitVec 8) (info : Word) : Prop :=
  exec i s = .next { s with err := true, errCode := code, errInfo := info, busy := false }

/-- ERR_NOTCFG with the command word while CONFIGURED = 0 (40_control.md R141). -/
def NeedsConfiguration (i : Instr) (s : State) : Prop := s.configured = false → EndsInError i s 0x02 s.latch

/-- ERR_UNDEF(k) or ERR_DATA(k) for the lowest k below n whose element is invalid or above 1 (00_scope.md R12). -/
def ReportsFirstBadBit (i : Instr) (s : State) (n : Nat) : Prop :=
  ∀ bs : List Bool, bs.length < n → HoldsBits s.fb 0 bs →
    (s.fb.elem bs.length = none → EndsInError i s 0x05 (BitVec.ofNat 32 bs.length)) ∧
      ∀ v, s.fb.elem bs.length = some v → 1 < v.toNat → EndsInError i s 0x06 (BitVec.ofNat 32 bs.length)

/-- The command's word, and the codes STATUS.STATE may read while it runs. -/
def IsCommand (i : Instr) (w : Word) (codes : List (BitVec 4)) : Prop :=
  decode w = some i ∧ ∀ s : State, s.busy = true → s.latch = w → stageField s ∈ codes

/-! ### Reset -/

/-- Every register and buffer but DONE and DP has the value 10_state.md R61 and 70_reset_and_hazards.md R370 give it. (What
DP holds after reset is log 7's choice and is not said.) -/
def AtReset (t : State) : Prop :=
  (t.ieDone = false ∧ t.ieErr = false ∧ t.busy = false ∧ t.err = false ∧ t.configured = false ∧ t.errCode = 0 ∧
    t.errInfo = 0) ∧
  (t.latch = 0 ∧ t.cfg0 = 0 ∧ t.actCfg = 0 ∧ t.cursor = 0 ∧ t.outReq = 0 ∧ t.outCount = 0 ∧ t.outMod = 0 ∧
    t.crcValue = 0 ∧ t.puncCount = 0 ∧ t.removedCount = 0) ∧
  (t.store.gen = 0 ∧ t.store.regs.nSymPay = 0 ∧
    ∀ r, t.store.sched.get r = [] ∧ t.store.regs.kSig.get r = 0 ∧ t.store.regs.nFec.get r = 0 ∧
      t.store.regs.nSym.get r = 0 ∧ t.store.regs.schedLen.get r = 0) ∧
  (∀ k, t.fb.elem k = none) ∧ (∀ k, t.ob.read k = 0) ∧ ∀ r k, (t.slots.get r).read k = 0

/-! ### Host accesses -/

/-- `MemRead(a, 4)` in state `s` leaves `t`. -/
def HostReads (s : State) (a : Nat) (t : State) : Prop := hostAccess ⟨.read, a, .w32⟩ s = .next t

/-- `MemWrite(a, 4, v)` in state `s` leaves `t`. -/
def HostWrites (s : State) (a : Nat) (v : Word) (t : State) : Prop := hostAccess ⟨.write v, a, .w32⟩ s = .next t

/-- A read of the idle core that answers `v` and changes nothing. -/
def ReadsWord (s : State) (a : Nat) (v : Word) : Prop := HostReads s a { s with readData := v }

/-! ### Polynomials over GF(2) (00_scope.md R13) -/

open Polynomial in
/-- The polynomial of a bit sequence, its first bit the highest degree. -/
noncomputable def seqPoly : List Bool → (ZMod 2)[X]
  | [] => 0
  | b :: bs => (if b then X ^ bs.length else 0) + seqPoly bs

open Polynomial in
/-- The polynomial `sum a_i x^i` of the natural number `sum a_i 2^i`. -/
noncomputable def natPoly (n : Nat) : (ZMod 2)[X] :=
  ∑ i ∈ Finset.range (n.log2 + 1), if n.testBit i then X ^ i else 0

/-! ### Configuration (40_control.md R144, R145) -/

/-- The preliminary length and its rounding meet 44_puncture.md R232 and R233: `nFec` is the least multiple of
`unit` that is at least `nTemp`. -/
def RoundsUp (nTemp unit nFec : Nat) : Prop := nFec % unit = 0 ∧ nTemp ≤ nFec ∧ nFec < nTemp + unit

/-- A table set fits C columns of R rows (45_interleave.md R260). -/
def FitsGrid (c r : Nat) (t : TableSet) : Prop :=
  t.tw.length = c ∧ (∀ x ∈ t.tw, x < r) ∧ t.dm.Perm (List.range c)

/-- F(rec) (44_puncture.md R233, R235). -/
def Framing (p : Params) (cfg : BitVec 15) (r : Rec) (f : Nat) : Prop :=
  match r with
  | .pre => f = 1
  | .post =>
    (p.fftFactor.at (cfgFft cfg) = some .one ∧ f = 1) ∨ (p.fftFactor.at (cfgFft cfg) = some .two ∧ f = 2)

/-- The condition of check n of 40_control.md R145. -/
def CheckHolds (n : Nat) (p : Params) (cfg : BitVec 15) : Prop :=
  match n with
  | 1 => cfg.toNat / 16 % 8 ≤ 3
  | 2 => cfg.toNat / 128 % 16 ≤ 3
  | 3 => p.validRate.at (cfgFsize cfg, cfgRate cfg) = true
  | 4 =>
    payMod cfg ≠ .qpsk →
      ∃ t, p.tableSet.at (payMod cfg, cfgRate cfg, cfgFsize cfg) = some t ∧
        FitsGrid (payCols cfg) (nFrameOf (cfgFsize cfg) / payCols cfg) t
  | 5 =>
    p.bchFactors.length = 12 ∧ (∀ f ∈ p.bchFactors, 2 ^ 14 ≤ f ∧ f < 2 ^ 15 ∧ f % 2 = 1) ∧
      (bchGenerator p).log2 = 168
  | 6 =>
    ∀ r : Rec,
      (p.kBch.get r + 168) % 360 = 0 ∧ p.nLdpcSig ≤ 64800 ∧ p.kBch.get r + 168 < p.nLdpcSig ∧
        (p.nLdpcSig - (p.kBch.get r + 168)) % 360 = 0 ∧
        (p.ldpcBase.get r).length = (p.kBch.get r + 168) / 360 ∧
        ∀ row ∈ p.ldpcBase.get r,
          1 ≤ row.count ∧ row.count ≤ 12 ∧ row.offsets.length = row.count ∧
            ∀ a ∈ row.offsets, a < p.nLdpcSig - (p.kBch.get r + 168)
  | 7 => ∀ r : Rec, (p.puncOrder.get r).Nodup ∧ ∀ g ∈ p.puncOrder.get r, g < (p.nLdpcSig - (p.kBch.get r + 168)) / 360
  | 8 =>
    ∀ r : Rec,
      ((p.schema.get r).at cfg).length ≤ 1024 ∧ (∀ w ∈ (p.schema.get r).at cfg, 1 ≤ w ∧ w ≤ 32) ∧
        (p.expLen.get r).at cfg + 32 ≤ p.kBch.get r
  | 9 =>
    ∀ r : Rec, ∃ f pt nFec : Nat,
      Framing p cfg r f ∧ (p.puncTemp.get r).at ((p.expLen.get r).at cfg + 32, cfg) = some pt ∧ pt ≤ pBitsOf p r ∧
        RoundsUp (((p.expLen.get r).at cfg + 32) + 168 + pBitsOf p r - pt) (etaOf cfg r * f) nFec ∧
        let nTemp : Int := ((p.expLen.get r).at cfg + 32 : Nat) + 168 + (pBitsOf p r : Int) - pt
        let nPunc : Int := pt - (nFec - nTemp)
        0 ≤ nPunc ∧ nPunc ≤ pBitsOf p r ∧ nPunc ≤ 360 * ((p.puncOrder.get r).length : Int) ∧
          nFec / etaOf cfg r ≤ 32400
  | 10 =>
    (cfg.toNat / 128 % 16 = 2 ∨ cfg.toNat / 128 % 16 = 3) →
      ∃ t, p.l1TableSet.at (l1Mod cfg) = some t ∧ nFecOf p cfg .post % (2 * eta (l1Mod cfg)) = 0 ∧
        FitsGrid (2 * eta (l1Mod cfg)) (nFecOf p cfg .post / (2 * eta (l1Mod cfg))) t
  | 11 =>
    nFrameOf (cfgFsize cfg) % eta (payMod cfg) = 0 ∧ nFrameOf (cfgFsize cfg) / eta (payMod cfg) ≤ 32400
  | _ => True

/-! ### What the data-path commands compute -/

/-- REMOVED(rec) as a list of parity indices (44_puncture.md R237): the whole groups, then the part of the next. -/
def removedBits (d : RecParams) : List Nat :=
  ((d.puncOrder.take (d.nPunc / 360)).flatMap fun g => (List.range 360).map fun x => g + d.q * x) ++
    (((d.puncOrder.drop (d.nPunc / 360)).take 1).flatMap fun g => (List.range (d.nPunc % 360)).map fun x => g + d.q * x)

/-- `out` of 44_puncture.md R238, by the membership test in REMOVED(rec). -/
def transmitted (d : RecParams) (bs : List Bool) : List Bool :=
  bs.take d.kSig ++ (bs.take d.kLdpc).drop d.kBch ++
    ((List.range d.pBits).filter fun j => !(removedBits d).contains j).map fun j => bs.getD (d.kLdpc + j) false

/-- The input position of 45_interleave.md R263 for column d of row r: `d * R + ((r - TW[d]) mod R)`. -/
def columnSource (rows : Nat) (t : TableSet) (r d : Nat) : Nat :=
  d * rows + (((r : Int) - (t.tw.getD d 0 : Nat)) % (rows : Int)).toNat

/-- `IL(L, C, TW, DM)` took frame buffer `m` to `m'` on elements 0 .. L-1, with R = L / C (45_interleave.md
R263). -/
def Interleaves (m m' : Memory) (l c : Nat) (t : TableSet) : Prop :=
  ∀ r d, r < l / c → d < c → m'.elem (r * c + t.dm.getD d 0) = m.elem (columnSource (l / c) t r d)

/-- The bits of symbol k (46_mapper.md R281). -/
def symbolBits (m : Modulation) (bs : List Bool) (k : Nat) : List Bool := (bs.drop (k * eta m)).take (eta m)

/-- The OB holds the symbols of `bs` in entries 0 .. n-1, and the entries above are stale (46_mapper.md R290). -/
def EmitsSymbols (s t : State) (raw : Bool) (m : Modulation) (n : Nat) (bs : List Bool) : Prop :=
  (∀ k, k < n → t.ob.read k = entryOf raw m (symbolBits m bs k)) ∧ ∀ k, n ≤ k → t.ob.read k = s.ob.read k

/-- The record's CRC-protected information bits: the packed fields and their CRC, MSB-first (41_pack_crc.md R161,
R168). -/
def infoBits (s : State) (r : Rec) : List Bool :=
  packedBits (schemaOf s.params s.actCfg r) (s.slots.get r) ++
    msbBits 32 (crc32 (packedBits (schemaOf s.params s.actCfg r) (s.slots.get r)))

/-- The BCH message: the information bits and the zero padding (41_pack_crc.md R173). -/
def messageBits (s : State) (r : Rec) : List Bool :=
  infoBits s r ++ List.replicate ((s.store.dp.recs.get r).kBch - (s.store.dp.recs.get r).kSig) false

/-- The LDPC message: the BCH codeword (42_bch.md R194). -/
def bchCodeword (s : State) (r : Rec) : List Bool :=
  messageBits s r ++ bchParity s.store.gen (messageBits s r)

/-- The LDPC codeword (43_ldpc.md R214). -/
def ldpcCodeword (s : State) (r : Rec) : List Bool :=
  bchCodeword s r ++ ldpcParity (s.store.sched.get r) (bchCodeword s r) (s.store.dp.recs.get r).pBits

/-- The bits ASSEMBLE.rec transmits (47_assembler.md R303). -/
def sentBits (s : State) (r : Rec) : List Bool :=
  match r with
  | .pre => transmitted (s.store.dp.recs.get .pre) (ldpcCodeword s .pre)
  | .post =>
    if l1Interleaved s.actCfg then
      interleavedBy (l1Cols s.actCfg) s.store.dp.l1Tables (transmitted (s.store.dp.recs.get .post) (ldpcCodeword s .post))
    else transmitted (s.store.dp.recs.get .post) (ldpcCodeword s .post)

/-- Two states that agree on all that ASSEMBLE.rec reads (47_assembler.md R302, R303). -/
def SameAssembleInputs (r : Rec) (s s' : State) : Prop :=
  s'.configured = s.configured ∧ s'.latch = s.latch ∧ s'.params = s.params ∧ s'.actCfg = s.actCfg ∧
    s'.store = s.store ∧ s'.outReq = s.outReq ∧ s'.slots.get r = s.slots.get r

end Sys2Proof.Claims

open Sys2Proof Sys2Proof.Machine Sys2Proof.Claims

/-! ### Encoding -/

/-- 30_encoding.md R110, R112: the decoder and the encoder agree with each other and with the table, on every 32-bit
word. -/
def Obligations.DecodeAndEncodeAgreeWithTheTable : Prop :=
  ∀ (w : Word) (i : Instr), (decode w = some i ↔ encode i = w) ∧ encode i = tableWord i

/-- 30_encoding.md R114: a word is illegal when its OPCODE is not in the table, its SEL is not one R113 allows, or its
ZERO is not 0; then it ends with ERR_ILLEGAL and the whole word, whatever CONFIGURED is, and nothing else changes.
Every other word is one of the commands. -/
def Obligations.IllegalWordsRaiseErrIllegal : Prop :=
  ∀ s : State, s.busy = true →
    (((Fields.ofWord s.latch).opcodeOk = false ∨ (Fields.ofWord s.latch).selOk = false ∨
          (Fields.ofWord s.latch).zero ≠ 0#20) →
        engineTurn s = .next { s with err := true, errCode := 0x01, errInfo := s.latch, busy := false }) ∧
      ((Fields.ofWord s.latch).opcodeOk = true → (Fields.ofWord s.latch).selOk = true →
        (Fields.ofWord s.latch).zero = 0#20 → ∃ i, decode s.latch = some i ∧ engineTurn s = exec i s)

/-- 30_encoding.md R122: the encoding examples. -/
def Obligations.EncodingExamplesDecode : Prop :=
  decode 0x17200000#32 = some .mapPost ∧ decode 0x00000000#32 = some .nop ∧ decode 0x17300000#32 = none ∧
    decode 0x10000001#32 = none ∧
    (∀ s : State, s.busy = true → s.latch = 0x17300000#32 →
      engineTurn s = .next { s with err := true, errCode := 0x01, errInfo := 0x17300000#32, busy := false }) ∧
    ∀ s : State, s.busy = false → s.err = false →
      HostWrites s 0x00008 0x17200000#32 { s with latch := 0x17200000#32, done := false, busy := true }

/-! ### Issue, the engine step, and the host's part -/

/-- 40_control.md R140: a write to CMD is a hazard while BUSY = 1, ignored while ERR = 1, and else latches the word,
clears DONE and sets BUSY. -/
def Obligations.CommandWriteIssues : Prop :=
  ∀ (s : State) (w : Word),
    (s.busy = true → hostAccess ⟨.write w, 0x00008, .w32⟩ s = .fault .hostHazard) ∧
      (s.busy = false → s.err = true → HostWrites s 0x00008 w s) ∧
      (s.busy = false → s.err = false → HostWrites s 0x00008 w { s with latch := w, done := false, busy := true })

/-- 40_control.md R141, 60_exceptions.md R349: a step that gives the engine its turn is the engine's turn, whatever LATCH
holds: a busy engine runs the command that LATCH decodes to, or ends in ERR_ILLEGAL with the word if LATCH decodes to none
(30_encoding.md R114); an idle one changes nothing. A host access that is the next input is performed. (That the turn is the
next input, or comes when no input is left, is the model's own schedule: log 3.) -/
def Obligations.StepRunsTheLatchedCommand : Prop :=
  ∀ (s : State) (rest : List Input),
    ((s.inputs = [] → step s = engineTurn s) ∧
      (s.inputs = .engine :: rest → step s = engineTurn { s with inputs := rest })) ∧
    (∀ i, s.busy = true → decode s.latch = some i →
      (s.inputs = [] → step s = exec i s) ∧ (s.inputs = .engine :: rest → step s = exec i { s with inputs := rest })) ∧
    (s.busy = true → decode s.latch = none →
      (s.inputs = [] →
        step s = .next { s with err := true, errCode := 0x01, errInfo := s.latch, busy := false }) ∧
      (s.inputs = .engine :: rest →
        step s = .next { s with
          err := true, errCode := 0x01, errInfo := s.latch, busy := false, inputs := rest })) ∧
    (s.busy = false →
      (s.inputs = [] → step s = .next s) ∧ (s.inputs = .engine :: rest → step s = .next { s with inputs := rest })) ∧
    ∀ a, s.inputs = .bus a :: rest → step s = hostAccess a { s with inputs := rest }

/-- The model's own (log 4): the word placed by `withFetchWord` is the one the very next step runs. -/
def Obligations.PlacedWordRunsNext : Prop :=
  ∀ (s : State) (i : Instr) (w : Nat), w < 2 ^ 32 → decodeTableWord 32 w = some i →
    step (s.withFetchWord 32 w) = exec i { s with latch := BitVec.ofNat 32 w, done := false, busy := true }

/-- 60_exceptions.md R339: an admitted access other than to STATUS or CTRL while BUSY = 1 is a HOST_HAZARD, a fault of
the run, and every other admitted access is performed (R343). That the window is BUSY = 1, and not the time up to the
STATUS read that returns BUSY = 0 (70_reset_and_hazards.md R377), is log 12's reading. -/
def Obligations.HostHazardExactlyWhileBusy : Prop :=
  ∀ (s : State) (op : BusOp) (a : Nat), a % 4 = 0 → a < 2 ^ 20 →
    ((s.busy = true ∧ a ≠ 0x00004 ∧ a ≠ 0x00000) ↔ hostAccess ⟨op, a, .w32⟩ s = .fault .hostHazard) ∧
      (¬ (s.busy = true ∧ a ≠ 0x00004 ∧ a ≠ 0x00000) ↔ ∃ t, hostAccess ⟨op, a, .w32⟩ s = .next t)

/-- 20_memory.md R82, 60_exceptions.md R340: an access that is not an aligned 32-bit access is refused, and an aligned
32-bit access of the space is not. The clauses about an access while BUSY = 1 and about an address beyond the space
are log 11's. -/
def Obligations.MalformedAccessesAreRefused : Prop :=
  ∀ (s : State) (a : Access),
    hostAccess a s = .refused .accessNotAdmitted ↔ (a.addr % 4 ≠ 0 ∨ a.width ≠ .w32 ∨ 2 ^ 20 ≤ a.addr)

/-- 40_control.md R141, "The step always terminates": the machine stops only on the host's misuse; an engine step, a
reset and an allowed access answer a next state. (An access is allowed by the window BUSY = 1, which is log 12's reading;
the schedule is log 3's.) -/
def Obligations.OnlyHostMisuseStopsTheMachine : Prop :=
  ∀ s : State,
    (∃ t, step s = .next t) ∨ ∃ a rest, s.inputs = .bus a :: rest ∧ ¬ AccessAllowed s a

/-- 70_reset_and_hazards.md R386: if the host keeps to STATUS and CTRL, a busy core is idle again after at most one
step more than it has inputs. (The schedule is log 3's.) -/
def Obligations.BusyCoreBecomesIdle : Prop :=
  ∀ s : State, s.busy = true →
    (∀ a, Input.bus a ∈ s.inputs → a.width = .w32 ∧ (a.addr = 0x00000 ∨ a.addr = 0x00004)) →
    ∃ k t, k ≤ s.inputs.length + 1 ∧ Sys2Proof.core.run k s = .next t ∧ t.busy = false

/-! ### How commands end -/

/-- 40_control.md R141: from an idle core's issue (DONE = 0, ERR = 0) every command ends with BUSY = 0 and exactly one
of DONE and ERR. -/
def Obligations.EveryCommandEndsDoneOrInError : Prop :=
  ∀ (i : Instr) (s : State), s.done = false → s.err = false →
    ∃ t, exec i s = .next t ∧ t.busy = false ∧ (t.done = true ↔ t.err = false)

/-- 60_exceptions.md R333: a command that ends in error writes ERR, ERRCODE, ERR_INFO and BUSY and nothing else, but
for a failed CONFIGURE, which also clears CONFIGURED. -/
def Obligations.ErrorsArePrecise : Prop :=
  ∀ (i : Instr) (s t : State), s.err = false → exec i s = .next t → t.err = true →
    t = { s with
      err := true, errCode := t.errCode, errInfo := t.errInfo, busy := false
      configured := if i = .configure then false else s.configured } ∧
    2 ≤ t.errCode.toNat ∧ t.errCode.toNat ≤ 8

/-- 30_encoding.md R112, 40_control.md R141: a command with cfg = 1 ends in ERR_NOTCFG with the command word while
CONFIGURED = 0, and no other command ever raises ERR_NOTCFG. -/
def Obligations.ConfigurationIsRequiredWhereTheTableSays : Prop :=
  ∀ (i : Instr) (s : State),
    (needsConfig i = true → s.configured = false → EndsInError i s 0x02 s.latch) ∧
      ((needsConfig i = false ∨ s.configured = true) → s.err = false →
        ∀ t, exec i s = .next t → t.err = true → t.errCode ≠ 0x02)

/-- 60_exceptions.md R335, 10_state.md R34, R35, 70_reset_and_hazards.md R377: in every state, busy or not, a write to STATUS
clears DONE if bit 1 = 1, and ERR, ERRCODE and ERR_INFO if bit 2 = 1, and changes nothing else, a pending command included;
while ERR = 1 a CMD write is ignored; after bit 2 was written as 1 commands are accepted, with all other state as the error
left it. -/
def Obligations.AcknowledgingAnErrorReturns : Prop :=
  ∀ (s : State) (v w : Word),
    HostWrites s 0x00004 v { s with
      done := if v.getLsbD 1 then false else s.done
      err := if v.getLsbD 2 then false else s.err
      errCode := if v.getLsbD 2 then 0 else s.errCode
      errInfo := if v.getLsbD 2 then 0 else s.errInfo } ∧
    (s.busy = false → s.err = true →
      HostWrites s 0x00008 w s ∧
      (v.getLsbD 2 = true →
        ∃ t, HostWrites s 0x00004 v t ∧
          t = { s with err := false, errCode := 0, errInfo := 0, done := s.done && !v.getLsbD 1 } ∧
          HostWrites t 0x00008 w { t with latch := w, done := false, busy := true }))

/-- 10_state.md R60, 60_exceptions.md R337: the IRQ line after a command is the enable of what happened. -/
def Obligations.CompletionDrivesIrq : Prop :=
  ∀ (i : Instr) (s t : State), s.done = false → s.err = false → exec i s = .next t →
    irq t = if t.err then t.ieErr else t.ieDone

/-! ### Registers and windows -/

/-- 10_state.md R33, R37: the fields of the STATUS word; STATE reads 0 while BUSY = 0 and never a reserved code. -/
def Obligations.StatusWordLayout : Prop :=
  ∀ s : State,
    HostReads s 0x00004 { s with readData := statusWord s, draws := if s.busy then s.draws + 1 else s.draws } ∧
      (statusWord s).getLsbD 0 = s.busy ∧ (statusWord s).getLsbD 1 = s.done ∧ (statusWord s).getLsbD 2 = s.err ∧
      (statusWord s).getLsbD 3 = s.configured ∧ (statusWord s).extractLsb' 4 4 = 0#4 ∧
      (statusWord s).extractLsb' 8 8 = s.errCode ∧ (statusWord s).extractLsb' 20 12 = 0#12 ∧
      (s.busy = false → (statusWord s).extractLsb' 16 4 = 0#4) ∧
      ((statusWord s).extractLsb' 16 4).toNat ≤ 10

/-- 10_state.md R32, R39, R41, R42: what a host write leaves in each register it may write, with all else unchanged, and what
the register then reads. CTRL in every state, "including while STATUS.BUSY = 1"; the others while BUSY = 0. -/
def Obligations.HostRegistersKeepTheirBits : Prop :=
  ∀ (s : State) (v : Word),
    (∃ t, HostWrites s 0x00000 v t ∧ t = { s with ieDone := v.getLsbD 0, ieErr := v.getLsbD 1 } ∧
      ReadsWord t 0x00000 (v &&& 0x00000003#32)) ∧
    (s.busy = false →
      (∃ t, HostWrites s 0x0000C v t ∧ t = { s with cfg0 := t.cfg0 } ∧ ReadsWord t 0x0000C (v &&& 0x00007FFF#32)) ∧
      (∃ t, HostWrites s 0x00014 v t ∧ t = { s with cursor := t.cursor } ∧
        ReadsWord t 0x00014 (v &&& 0x0001FFFF#32)) ∧
      ∃ t, HostWrites s 0x00018 v t ∧ t = { s with outReq := t.outReq } ∧ ReadsWord t 0x00018 (v &&& 0x0000FFFF#32))

/-- 20_memory.md R87: the field windows store and return all 32 bits of each slot. -/
def Obligations.FieldWindowsStoreWholeWords : Prop :=
  ∀ (s : State) (r : Rec) (i : Nat) (v : Word), s.busy = false → i < 1024 →
    ReadsWord s ((match r with | .pre => 0x01000 | .post => 0x02000) + 4 * i) ((s.slots.get r).read i) ∧
      ∃ t, HostWrites s ((match r with | .pre => 0x01000 | .post => 0x02000) + 4 * i) v t ∧
        t = { s with slots := t.slots } ∧
        ∀ q j, (t.slots.get q).read j = if q = r ∧ j = i then v else (s.slots.get q).read j

/-- 20_memory.md R84: the element window. -/
def Obligations.ElementWindowReadsAndWrites : Prop :=
  ∀ (s : State) (w : Nat) (v : Word), s.busy = false →
    (w < 16200 →
      (∃ d, ReadsWord s (0x10000 + 4 * w) d ∧
        ∀ k, k < 4 → d.extractLsb' (24 - 8 * k) 8 = (s.fb.elem (4 * w + k)).getD 0) ∧
      ∃ t, HostWrites s (0x10000 + 4 * w) v t ∧ t = { s with fb := t.fb } ∧
        (∀ k, k < 4 → t.fb.elem (4 * w + k) = some (v.extractLsb' (24 - 8 * k) 8)) ∧
        ∀ j, (j < 4 * w ∨ 4 * w + 4 ≤ j) → t.fb.elem j = s.fb.elem j) ∧
    (16200 ≤ w → w < 16384 → ReadsWord s (0x10000 + 4 * w) 0 ∧ HostWrites s (0x10000 + 4 * w) v s)

/-- 20_memory.md R85: the packed window. -/
def Obligations.PackedWindowReadsAndWrites : Prop :=
  ∀ (s : State) (w : Nat) (v : Word), s.busy = false →
    (w < 2025 →
      (∃ d, ReadsWord s (0x20000 + 4 * w) d ∧
        ∀ k, k < 32 → d.getLsbD (31 - k) = ((s.fb.elem (32 * w + k)).getD 0).getLsbD 0) ∧
      ∃ t, HostWrites s (0x20000 + 4 * w) v t ∧ t = { s with fb := t.fb } ∧
        (∀ k, k < 32 → t.fb.elem (32 * w + k) = some (if v.getLsbD (31 - k) then 1 else 0)) ∧
        ∀ j, (j < 32 * w ∨ 32 * w + 32 ≤ j) → t.fb.elem j = s.fb.elem j) ∧
    (2025 ≤ w → w < 2048 → ReadsWord s (0x20000 + 4 * w) 0 ∧ HostWrites s (0x20000 + 4 * w) v s)

/-- 20_memory.md R86: the OB window reads the entries and ignores writes; its reserved words read 0. -/
def Obligations.OutputWindowIsReadOnly : Prop :=
  ∀ (s : State) (i : Nat) (v : Word), s.busy = false → i < 32768 →
    ReadsWord s (0x40000 + 4 * i) (if i < 32400 then s.ob.read i else 0) ∧ HostWrites s (0x40000 + 4 * i) v s

/-- 20_memory.md R90: outside the registers and windows of 10_state.md R31 a read returns 0 and a write is ignored. -/
def Obligations.ReservedAddressesReadZero : Prop :=
  ∀ (s : State) (a : Nat) (v : Word), s.busy = false → a % 4 = 0 → a < 2 ^ 20 →
    ((0x00054 < a ∧ a < 0x00060) ∨ (0x00074 < a ∧ a < 0x01000) ∨ (0x02FFC < a ∧ a < 0x10000) ∨
      (0x10000 + 4 * 16200 ≤ a ∧ a < 0x20000) ∨ (0x20000 + 4 * 2025 ≤ a ∧ a < 0x40000) ∨ 0x40000 + 4 * 32400 ≤ a) →
    ReadsWord s a 0 ∧ HostWrites s a v s

/-- 20_memory.md R89: no read changes the core, and two reads of one address return the same value, except of STATUS
while BUSY = 1. (readData and draws are the model's own: logs 5, 6.) -/
def Obligations.ReadsHaveNoSideEffect : Prop :=
  ∀ (s t : State) (a : Nat), HostReads s a t →
    t = { s with readData := t.readData, draws := t.draws } ∧
      ((s.busy = false ∨ a ≠ 0x00004) → t.draws = s.draws ∧ HostReads t a t)

/-- 10_state.md R48, 42_bch.md R192: BCH_GEN0 to BCH_GEN5 read the 192-bit value GEN * 2^24, most significant word
first; the low 24 bits of BCH_GEN5 are 0, and writes are ignored. -/
def Obligations.GeneratorReadback : Prop :=
  ∀ (s : State) (w : Nat), s.busy = false → w < 6 →
    (∀ v, HostWrites s (0x00060 + 4 * w) v s) ∧
      ∃ d, ReadsWord s (0x00060 + 4 * w) d ∧
        ∀ b, b < 32 →
          d.getLsbD b = (decide (24 ≤ 160 - 32 * w + b) && s.store.gen.getLsbD (160 - 32 * w + b - 24))

/-- 10_state.md R31, R38, R40, R43 to R47, R49: each read-only register reads its value, zero-extended, and ignores
writes; CMD reads 0. -/
def Obligations.ReadOnlyRegistersReadBack : Prop :=
  ∀ (s : State) (v : Word), s.busy = false →
    (∀ p ∈ [(0x00010, s.actCfg.toNat), (0x0001C, s.outCount.toNat), (0x00020, s.outMod.toNat),
        (0x00024, s.crcValue.toNat), (0x00028, s.puncCount.toNat), (0x0002C, s.removedCount.toNat),
        (0x00030, s.store.regs.kSig.pre.toNat), (0x00034, s.store.regs.kSig.post.toNat),
        (0x00038, s.store.regs.nFec.pre.toNat), (0x0003C, s.store.regs.nFec.post.toNat),
        (0x00040, s.store.regs.nSym.pre.toNat), (0x00044, s.store.regs.nSym.post.toNat),
        (0x00048, s.store.regs.nSymPay.toNat), (0x0004C, s.store.regs.schedLen.pre.toNat),
        (0x00050, s.store.regs.schedLen.post.toNat), (0x00054, s.errInfo.toNat)],
      ReadsWord s p.1 (BitVec.ofNat 32 p.2) ∧ HostWrites s p.1 v s) ∧
    ReadsWord s 0x00008 0

/-- 10_state.md R32, R38, R52, R53: the commands other than SOFT_RESET write none of the registers the host alone
writes, and no command writes the model's own fields (logs 1, 3, 5, 6). -/
def Obligations.CommandsLeaveHostRegisters : Prop :=
  ∀ (i : Instr) (s t : State), exec i s = .next t →
    (i ≠ .softReset →
      t.ieDone = s.ieDone ∧ t.ieErr = s.ieErr ∧ t.cfg0 = s.cfg0 ∧ t.outReq = s.outReq ∧ t.slots = s.slots ∧
        t.latch = s.latch) ∧
      t.params = s.params ∧ t.inputs = s.inputs ∧ t.readData = s.readData ∧ t.draws = s.draws

/-- 20_memory.md R95, R96, 10_state.md R40: the configuration store, ACTCFG and CONFIGURED change only in an engine step
that runs CONFIGURE or SOFT_RESET (the engine's turn is log 3's), or by the reset input. -/
def Obligations.OnlyConfigureAndResetChangeTheConfiguration : Prop :=
  ∀ s t : State, step s = .next t →
    (t.store = s.store ∧ t.actCfg = s.actCfg ∧ t.configured = s.configured) ∨
      (∃ rest, s.inputs = .reset :: rest) ∨
      (s.busy = true ∧ (s.inputs = [] ∨ ∃ rest, s.inputs = .engine :: rest) ∧
        (decode s.latch = some .configure ∨ decode s.latch = some .softReset))

/-- 10_state.md R39, R40: no command other than CONFIGURE reads CFG0. -/
def Obligations.OnlyConfigureReadsCfg0 : Prop :=
  ∀ (i : Instr) (s t : State) (c : BitVec 15), i ≠ .configure → exec i s = .next t →
    exec i { s with cfg0 := c } = .next { t with cfg0 := if i = .softReset then 0 else c }

/-- 10_state.md R61: "no rule reads DP before the next successful CONFIGURE". Whatever DP holds while CONFIGURED = 0, a
command's outcome is the same, and a successful CONFIGURE replaces it. -/
def Obligations.NoCommandReadsDpUnconfigured : Prop :=
  ∀ (i : Instr) (s t : State) (d : DerivedParams), s.configured = false → exec i s = .next t →
    ∃ u, exec i { s with store := { s.store with dp := d } } = .next u ∧
      { u with store := { u.store with dp := t.store.dp } } = t ∧ (t.configured = true → u = t)

/-! ### NOP, CLEAR, SOFT_RESET, reset -/

/-- 40_control.md R142, R149, R150: the commands without operands; STATE reads 0 while they run (47_assembler.md R300).
SOFT_RESET leaves the model's own fields (logs 1, 3, 5, 6); what it leaves in DP is log 7's choice and is not stated. -/
def Obligations.NopClearAndSoftReset : Prop :=
  ∀ s : State,
    (IsCommand .nop 0x00000000#32 [0] ∧ exec .nop s = .next { s with done := true, busy := false }) ∧
    (IsCommand .clear 0x03000000#32 [0] ∧
      ∃ t, exec .clear s = .next t ∧ t = { s with fb := t.fb, cursor := 0, done := true, busy := false } ∧
        ∀ k, t.fb.elem k = none) ∧
    (IsCommand .softReset 0x02000000#32 [0] ∧
      ∃ t, exec .softReset s = .next t ∧ AtReset t ∧ t.done = true ∧ t.params = s.params ∧ t.inputs = s.inputs ∧
        t.readData = s.readData ∧ t.draws = s.draws)

/-- 10_state.md R61, 70_reset_and_hazards.md R370, R371: the reset input acts in every state, and every register and
buffer takes its reset value. (DP after reset is log 7's choice and is not stated here; that the reset is an input, and what
it leaves in the model's own fields, is logs 1, 3, 5 and 6.) -/
def Obligations.ResetInputActsInEveryState : Prop :=
  ∀ (s : State) (rest : List Input), s.inputs = .reset :: rest →
    ∃ t, step s = .next t ∧ AtReset t ∧ t.done = false ∧ irq t = false ∧ t.params = s.params ∧ t.inputs = rest ∧
      t.readData = s.readData ∧ t.draws = s.draws

/-! ### CONFIGURE -/

/-- 40_control.md R145, R147: the checks run in order; the first that fails ends CONFIGURE with its number and clears
CONFIGURED; if none fails CONFIGURE commits. -/
def Obligations.ConfigureReportsTheFirstFailingCheck : Prop :=
  ∀ s : State,
    IsCommand .configure 0x01000000#32 [10] ∧
    (∀ n, 1 ≤ n → n ≤ 11 → (∀ k, 1 ≤ k → k < n → CheckHolds k s.params s.cfg0) → ¬ CheckHolds n s.params s.cfg0 →
      exec .configure s = .next { s with
        err := true, errCode := 0x03, errInfo := BitVec.ofNat 32 n, busy := false, configured := false }) ∧
    ((∀ k, 1 ≤ k → k ≤ 11 → CheckHolds k s.params s.cfg0) →
      ∃ t, exec .configure s = .next t ∧
        t = { s with store := t.store, actCfg := s.cfg0, configured := true, done := true, busy := false })

/-- 00_scope.md R15, R17, 41_pack_crc.md R162, 44_puncture.md R230, R232 to R234, 10_state.md R46, R47: what an accepted
configuration's DP and derived registers hold. -/
def Obligations.ConfigureDerivesTheLengths : Prop :=
  ∀ s : State, failedCheck s.params s.cfg0 = none →
    ∃ t, exec .configure s = .next t ∧
      ∀ r : Rec,
        let d := t.store.dp.recs.get r
        let regs := t.store.regs
        (d.kSig = (s.params.expLen.get r).at s.cfg0 + 32 ∧ d.kBch = s.params.kBch.get r ∧ d.kLdpc = d.kBch + 168 ∧
          d.kLdpc + d.pBits = s.params.nLdpcSig ∧ d.q * 360 = d.pBits ∧ d.kSig ≤ d.kBch) ∧
        (∃ f pt, Framing s.params s.cfg0 r f ∧
          (s.params.puncTemp.get r).at (d.kSig, s.cfg0) = some pt ∧
          RoundsUp (d.kSig + 168 + d.pBits - pt) (d.eta * f) d.nFec) ∧
        (d.kSig + 168 + d.pBits = d.nFec + d.nPunc ∧ d.nPunc ≤ d.pBits ∧ d.nSym * d.eta = d.nFec ∧ d.nSym ≤ 32400) ∧
        ((regs.kSig.get r).toNat = d.kSig ∧ (regs.nFec.get r).toNat = d.nFec ∧ (regs.nSym.get r).toNat = d.nSym ∧
          (regs.schedLen.get r).toNat = (t.store.sched.get r).length) ∧
        (d.eta = (match r with | .pre => 1 | .post => [1, 2, 4, 6].getD (s.cfg0.toNat / 128 % 16) 0) ∧
          t.store.dp.etaPay = [2, 4, 6, 8].getD (s.cfg0.toNat / 16 % 8) 0) ∧
        regs.nSymPay.toNat * t.store.dp.etaPay = t.store.dp.nFrame ∧
        t.store.dp.nFrame = (if s.cfg0.getLsbD 0 then 16200 else 64800)

/-- 42_bch.md R191, R192, 00_scope.md R13: for factors that pass check 5, the generator is their product over GF(2),
its x^168 coefficient is 1, GEN holds the other coefficients, and the order of the factors does not matter. -/
def Obligations.GeneratorIsTheProductOfTheFactors : Prop :=
  ∀ p : Params, check5 p = true →
    natPoly (bchGenerator p) = (p.bchFactors.map natPoly).prod ∧
      (bchGenerator p).testBit 168 = true ∧
      (∀ i, i < 168 → (genOf p).getLsbD i = (bchGenerator p).testBit i) ∧
      ∀ fs, fs.Perm p.bchFactors → bchGenerator { p with bchFactors := fs } = bchGenerator p

/-- 43_ldpc.md R211, R212: for a well-formed base table, the length of the schedule and each of its entries in order;
every entry is in range, and every message bit is the message index of an entry. -/
def Obligations.ScheduleEntriesInOrder : Prop :=
  ∀ (p : Params) (r : Rec), check6 p = true →
    (scheduleOf p r).length = 360 * ((p.ldpcBase.get r).map BaseRow.count).sum ∧
    (scheduleOf p r).length ≤ 777600 ∧
    (∀ (k n t : Nat) (row : BaseRow) (a : Nat),
      (p.ldpcBase.get r)[k]? = some row → n < 360 → row.offsets[t]? = some a →
      (scheduleOf p r)[360 * (((p.ldpcBase.get r).take k).map BaseRow.count).sum + n * row.count + t]? =
        some ((a + n * qOf p r) % pBitsOf p r, 360 * k + n)) ∧
    (∀ e ∈ scheduleOf p r, e.1 < pBitsOf p r ∧ e.2 < kLdpcOf p r) ∧
    ∀ m, m < kLdpcOf p r → ∃ e ∈ scheduleOf p r, e.2 = m

/-! ### PACK, CRC_APPEND, PAD -/

/-- 41_pack_crc.md R161, R163: PACK. -/
def Obligations.PackSerialisesTheFields : Prop :=
  ∀ (r : Rec) (s : State),
    let i := packOf r
    let ws := (s.params.schema.get r).at s.actCfg
    let n := (s.params.expLen.get r).at s.actCfg
    IsCommand i (match r with | .pre => 0x10000000#32 | .post => 0x10100000#32) [1] ∧
    NeedsConfiguration i s ∧
    (s.configured = true → ws.sum ≠ n → EndsInError i s 0x04 (BitVec.ofNat 32 ws.sum)) ∧
    (s.Inv → s.configured = true → ws.sum = n →
      ∃ t, exec i s = .next t ∧
        t = { s with fb := t.fb, cursor := t.cursor, done := true, busy := false } ∧ t.cursor.toNat = n ∧
        (∀ f w j, ws[f]? = some w → j < w →
          t.fb.elem ((ws.take f).sum + j) =
            some (bitByte ((((s.slots.get r).read f).toNat % 2 ^ w).testBit (w - 1 - j)))) ∧
        ∀ k, n ≤ k → t.fb.elem k = none)

/-- 41_pack_crc.md R166, R168: CRC_APPEND. -/
def Obligations.CrcAppendAppendsTheCrc : Prop :=
  ∀ s : State,
    let n := s.cursor.toNat
    IsCommand .crcAppend 0x11000000#32 [2] ∧
    (64800 < n + 32 → EndsInError .crcAppend s 0x04 (BitVec.ofNat 32 n)) ∧
    (n + 32 ≤ 64800 → s.fb.wf →
      ReportsFirstBadBit .crcAppend s n ∧
      ∀ bs : List Bool, bs.length = n → HoldsBits s.fb 0 bs →
        ∃ t, exec .crcAppend s = .next t ∧
          t = { s with fb := t.fb, cursor := t.cursor, crcValue := crc32 bs, done := true, busy := false } ∧
          t.cursor.toNat = n + 32 ∧
          (∀ j, j < 32 → t.fb.elem (n + j) = some (bitByte ((crc32 bs).getLsbD (31 - j)))) ∧
          ∀ k, (k < n ∨ n + 32 ≤ k) → t.fb.elem k = s.fb.elem k)

/-- 41_pack_crc.md R165, R167: crc32(b) is the remainder of `P(x) * x^n + B(x) * x^32` modulo `x^32 + 0x04C11DB7`, with
P(x) = 0xFFFFFFFF the all-ones preset; and the residual of a sequence with its CRC appended is 0. -/
def Obligations.CrcResidualIsZero : Prop :=
  ∀ bs : List Bool,
    (natPoly 0xFFFFFFFF * Polynomial.X ^ bs.length + seqPoly bs * Polynomial.X ^ 32) %ₘ
          (Polynomial.X ^ 32 + natPoly 0x04C11DB7) =
        seqPoly (msbBits 32 (crc32 bs)) ∧
      crc32 (bs ++ msbBits 32 (crc32 bs)) = 0

/-- 41_pack_crc.md R173: PAD. -/
def Obligations.PadFillsWithZeros : Prop :=
  ∀ (r : Rec) (s : State),
    let i := padOf r
    let d := s.store.dp.recs.get r
    IsCommand i (match r with | .pre => 0x12000000#32 | .post => 0x12100000#32) [3] ∧
    NeedsConfiguration i s ∧
    (s.configured = true → s.cursor.toNat ≠ d.kSig → EndsInError i s 0x04 (BitVec.ofNat 32 s.cursor.toNat)) ∧
    (s.Inv → s.configured = true → s.cursor.toNat = d.kSig →
      ∃ t, exec i s = .next t ∧
        t = { s with fb := t.fb, cursor := t.cursor, done := true, busy := false } ∧ t.cursor.toNat = d.kBch ∧
        (∀ k, d.kSig ≤ k → k < d.kBch → t.fb.elem k = some 0) ∧
        ∀ k, (k < d.kSig ∨ d.kBch ≤ k) → t.fb.elem k = s.fb.elem k)

/-! ### BCH_ENCODE -/

/-- 42_bch.md R194: BCH_ENCODE. -/
def Obligations.BchEncodeAppendsTheParity : Prop :=
  ∀ (r : Rec) (s : State),
    let i := bchOf r
    let k := (s.store.dp.recs.get r).kBch
    IsCommand i (match r with | .pre => 0x13000000#32 | .post => 0x13100000#32) [4] ∧
    NeedsConfiguration i s ∧
    (s.configured = true → s.cursor.toNat ≠ k → EndsInError i s 0x04 (BitVec.ofNat 32 s.cursor.toNat)) ∧
    (s.Inv → s.configured = true → s.cursor.toNat = k →
      ReportsFirstBadBit i s k ∧
      ∀ ms : List Bool, ms.length = k → HoldsBits s.fb 0 ms →
        ∃ t, exec i s = .next t ∧
          t = { s with fb := t.fb, cursor := t.cursor, done := true, busy := false } ∧
          t.cursor.toNat = (s.store.dp.recs.get r).kLdpc ∧
          (∀ j, j < 168 → t.fb.elem (k + j) = some (bitByte ((bchRegister s.store.gen ms).getLsbD (167 - j)))) ∧
          ∀ j, (j < k ∨ k + 168 ≤ j) → t.fb.elem j = s.fb.elem j)

/-- 42_bch.md R193: the parity is the remainder of `M(x) * x^168` by g(x), p_j the coefficient of x^(167-j), and the
codeword `M(x) * x^168 + r(x)` is a multiple of g(x). -/
def Obligations.BchParityIsThePolynomialRemainder : Prop :=
  ∀ (gen : BitVec 168) (ms : List Bool),
    let g := Polynomial.X ^ 168 + seqPoly (msbBits 168 gen)
    (seqPoly ms * Polynomial.X ^ 168) %ₘ g = seqPoly (bchParity gen ms) ∧
      g ∣ seqPoly ms * Polynomial.X ^ 168 + seqPoly (bchParity gen ms)

/-- 42_bch.md R195: linearity, the zero message, and single flips: flipping m_k adds the parity of the single bit
m_k, which is not 0 when g has constant term 1. -/
def Obligations.BchParityIsLinear : Prop :=
  ∀ gen : BitVec 168,
    (∀ ms ms' : List Bool, ms.length = ms'.length →
      bchRegister gen (List.zipWith (fun a b => a ^^ b) ms ms') = bchRegister gen ms ^^^ bchRegister gen ms') ∧
    (∀ k, bchParity gen (List.replicate k false) = List.replicate 168 false) ∧
    ∀ (ms : List Bool) (k : Nat) (h : k < ms.length),
      bchRegister gen (ms.set k (!ms[k])) =
          bchRegister gen ms ^^^ bchRegister gen (true :: List.replicate (ms.length - 1 - k) false) ∧
        (gen.getLsbD 0 = true → bchParity gen (ms.set k (!ms[k])) ≠ bchParity gen ms)

/-! ### LDPC_ENCODE -/

/-- 43_ldpc.md R214: LDPC_ENCODE. -/
def Obligations.LdpcEncodeAppendsTheParity : Prop :=
  ∀ (r : Rec) (s : State),
    let i := ldpcOf r
    let d := s.store.dp.recs.get r
    IsCommand i (match r with | .pre => 0x14000000#32 | .post => 0x14100000#32) [5] ∧
    NeedsConfiguration i s ∧
    (s.configured = true → s.cursor.toNat ≠ d.kLdpc → EndsInError i s 0x04 (BitVec.ofNat 32 s.cursor.toNat)) ∧
    (s.Inv → s.configured = true → s.cursor.toNat = d.kLdpc →
      ReportsFirstBadBit i s d.kLdpc ∧
      ∀ ms : List Bool, ms.length = d.kLdpc → HoldsBits s.fb 0 ms →
        ∃ t, exec i s = .next t ∧
          t = { s with fb := t.fb, cursor := t.cursor, done := true, busy := false } ∧
          t.cursor.toNat = s.params.nLdpcSig ∧
          HoldsBits t.fb d.kLdpc (ldpcParity (s.store.sched.get r) ms d.pBits) ∧
          ∀ j, (j < d.kLdpc ∨ d.kLdpc + d.pBits ≤ j) → t.fb.elem j = s.fb.elem j)

/-- 43_ldpc.md R214, R215: the parity checks of the accumulator: p[j] xor p[j-1] is the sum of the message bits whose
entries name j; the map is linear, and the zero message has zero parity. -/
def Obligations.LdpcParityMeetsItsChecks : Prop :=
  ∀ (sched : List (Nat × Nat)) (pBits : Nat),
    (∀ ms : List Bool, (ldpcParity sched ms pBits).length = pBits ∧
      ∀ j, j < pBits →
        ((ldpcParity sched ms pBits).getD j false ^^ (decide (0 < j) && (ldpcParity sched ms pBits).getD (j - 1) false)) =
          decide ((sched.filter (fun e => decide (e.1 = j) && ms.getD e.2 false)).length % 2 = 1)) ∧
    (∀ ms ms' : List Bool, ms.length = ms'.length →
      ldpcParity sched (List.zipWith (fun a b => a ^^ b) ms ms') pBits =
        List.zipWith (fun a b => a ^^ b) (ldpcParity sched ms pBits) (ldpcParity sched ms' pBits)) ∧
    ∀ k, ldpcParity sched (List.replicate k false) pBits = List.replicate pBits false

/-! ### PUNCTURE -/

/-- 44_puncture.md R238: PUNCTURE. -/
def Obligations.PunctureLeavesTheTransmittedSequence : Prop :=
  ∀ (r : Rec) (s : State),
    let i := punctureOf r
    let d := s.store.dp.recs.get r
    let n := s.params.nLdpcSig
    IsCommand i (match r with | .pre => 0x15000000#32 | .post => 0x15100000#32) [6] ∧
    NeedsConfiguration i s ∧
    (s.configured = true → s.cursor.toNat ≠ n → EndsInError i s 0x04 (BitVec.ofNat 32 s.cursor.toNat)) ∧
    (s.Inv → s.configured = true → s.cursor.toNat = n →
      ReportsFirstBadBit i s n ∧
      ∀ bs : List Bool, bs.length = n → HoldsBits s.fb 0 bs →
        ∃ t, exec i s = .next t ∧
          t = { s with
            fb := t.fb, cursor := t.cursor, puncCount := t.puncCount, removedCount := t.removedCount
            done := true, busy := false } ∧
          t.cursor.toNat = d.nFec ∧ t.puncCount.toNat = d.nPunc ∧
          t.removedCount.toNat = (d.kBch - d.kSig) + d.nPunc ∧
          (transmitted d bs).length = d.nFec ∧ HoldsBits t.fb 0 (transmitted d bs) ∧
          ∀ k, d.nFec ≤ k → t.fb.elem k = none)

/-- 44_puncture.md R236, R237: under an accepted configuration the removed parity bits are N_punc distinct bits of the
parity region. -/
def Obligations.RemovedSetHasNpuncBits : Prop :=
  ∀ (p : Params) (cfg : BitVec 15) (r : Rec), failedCheck p cfg = none →
    let d := (storeOf p cfg).dp.recs.get r
    (removedBits d).Nodup ∧ (removedBits d).length = d.nPunc ∧ ∀ j ∈ removedBits d, j < d.pBits

/-- 44_puncture.md R239: after a successful PUNCTURE, CURSOR + REMOVED_COUNT = N_LDPC_SIG, and PUNC_COUNT depends on the
configuration only. -/
def Obligations.PunctureLengthProperty : Prop :=
  ∀ (r : Rec) (s t : State), s.Inv → s.err = false → exec (punctureOf r) s = .next t → t.err = false →
    t.cursor.toNat + t.removedCount.toNat = s.params.nLdpcSig ∧
      t.puncCount.toNat = nPuncOf s.params s.actCfg r

/-! ### INTERLEAVE -/

/-- 45_interleave.md R263, R265, R267: INTERLEAVE.PAY. -/
def Obligations.InterleavePayPermutesTheFrame : Prop :=
  ∀ s : State,
    let l := if s.actCfg.getLsbD 0 then 16200 else 64800
    IsCommand .interleavePay 0x16000000#32 [7] ∧
    NeedsConfiguration .interleavePay s ∧
    (s.Inv → s.configured = true →
      (s.cursor.toNat ≠ l → EndsInError .interleavePay s 0x04 (BitVec.ofNat 32 s.cursor.toNat)) ∧
      (s.cursor.toNat = l →
        ReportsFirstBadBit .interleavePay s l ∧
        ((∃ bs : List Bool, bs.length = l ∧ HoldsBits s.fb 0 bs) →
          ∃ t, exec .interleavePay s = .next t ∧ t = { s with fb := t.fb, done := true, busy := false } ∧
            (payMod s.actCfg = .qpsk → ∀ k, t.fb.elem k = s.fb.elem k) ∧
            (payMod s.actCfg ≠ .qpsk →
              ∃ ts, s.params.tableSet.at (payMod s.actCfg, cfgRate s.actCfg, cfgFsize s.actCfg) = some ts ∧
                Interleaves s.fb t.fb l (cols (payMod s.actCfg) (cfgFsize s.actCfg)) ts) ∧
            ∀ k, l ≤ k → t.fb.elem k = s.fb.elem k)))

/-- 45_interleave.md R263, R266: INTERLEAVE.POST. -/
def Obligations.InterleavePostPermutesTheRecord : Prop :=
  ∀ s : State,
    let l := s.store.dp.recs.post.nFec
    let lm := s.actCfg.toNat / 128 % 16
    IsCommand .interleavePost 0x16100000#32 [7] ∧
    NeedsConfiguration .interleavePost s ∧
    (s.configured = true → lm ≠ 2 → lm ≠ 3 → EndsInError .interleavePost s 0x08 (BitVec.ofNat 32 lm)) ∧
    (s.configured = true → (lm = 2 ∨ lm = 3) → s.cursor.toNat ≠ l →
      EndsInError .interleavePost s 0x04 (BitVec.ofNat 32 s.cursor.toNat)) ∧
    (s.Inv → s.configured = true → (lm = 2 ∨ lm = 3) → s.cursor.toNat = l →
      ReportsFirstBadBit .interleavePost s l ∧
      ((∃ bs : List Bool, bs.length = l ∧ HoldsBits s.fb 0 bs) →
        ∃ t, exec .interleavePost s = .next t ∧ t = { s with fb := t.fb, done := true, busy := false } ∧
          (∃ ts, s.params.l1TableSet.at (l1Mod s.actCfg) = some ts ∧
            Interleaves s.fb t.fb l (2 * eta (l1Mod s.actCfg)) ts) ∧
          ∀ k, l ≤ k → t.fb.elem k = s.fb.elem k))

/-- 45_interleave.md R264: for every well-formed table set, every output position is filled exactly once and no input
position is read twice. -/
def Obligations.InterleaverIsABijection : Prop :=
  ∀ (rows columns : Nat) (t : TableSet), tableSetWf columns rows t = true →
    ((List.range (rows * columns)).map (ilSource rows columns t)).Perm (List.range (rows * columns))

/-! ### MAP -/

/-- 46_mapper.md R280, R281, R290: MAP, with MODCODE and the bits per symbol as numbers (00_scope.md R15, 30_encoding.md
R118). What a CURSOR above 64800 reads beyond the last element is log 18's choice and is not stated. -/
def Obligations.MapEmitsTheSymbols : Prop :=
  ∀ (sel : MapSel) (s : State),
    let i := mapOf sel
    let n := s.cursor.toNat
    IsCommand i (match sel with | .pay => 0x17000000#32 | .pre => 0x17100000#32 | .post => 0x17200000#32) [8, 9] ∧
    NeedsConfiguration i s ∧
    (s.Inv → s.configured = true →
      ∃ m e, modulations[modCodeOf s.actCfg sel]? = some (m, e) ∧
        ((n % e ≠ 0 ∨ 32400 < n / e) → EndsInError i s 0x04 (BitVec.ofNat 32 n)) ∧
        (n % e = 0 → n / e ≤ 32400 →
          ReportsFirstBadBit i s (min n 64800) ∧
          ∀ bs : List Bool, bs.length = n → HoldsBits s.fb 0 bs →
            ∃ t, exec i s = .next t ∧
              t = { s with ob := t.ob, outCount := t.outCount, outMod := t.outMod, done := true, busy := false } ∧
              t.outCount.toNat = n / e ∧ t.outMod.toNat = outModValue s.actCfg sel ∧
              (∀ k, k < n / e → t.ob.read k = entryOf (s.actCfg.getLsbD 14) m ((bs.drop (k * e)).take e)) ∧
              ∀ k, n / e ≤ k → t.ob.read k = s.ob.read k))

/-- 46_mapper.md R282, R289: an entry holds the integer coordinates in two's complement, or the raw bits. -/
def Obligations.EntriesHoldCoordinatesOrRawBits : Prop :=
  ∀ (m : Modulation) (ys : List Bool), ys.length = eta m →
    let u : Nat → Int := fun i => 1 - 2 * ((ys.getD i false).toNat : Int)
    let c := match m with
      | .bpsk => (u 0, 0)
      | .qpsk => (u 0, u 1)
      | .qam16 => (u 0 * (2 + u 2), u 1 * (2 + u 3))
      | .qam64 => (u 0 * (4 + u 2 * (2 + u 4)), u 1 * (4 + u 3 * (2 + u 5)))
      | .qam256 => (u 0 * (8 + u 2 * (4 + u 4 * (2 + u 6))), u 1 * (8 + u 3 * (4 + u 5 * (2 + u 7))))
    ((entryOf false m ys).extractLsb' 16 16).toInt = c.1 ∧ ((entryOf false m ys).extractLsb' 0 16).toInt = c.2 ∧
      (entryOf true m ys).toNat = ((List.range (eta m)).map fun j => (ys.getD j false).toNat * 2 ^ (eta m - 1 - j)).sum

/-- 46_mapper.md R287: the points of each modulation have mean energy E. -/
def Obligations.ConstellationEnergyIsNormalised : Prop :=
  ∀ m : Modulation,
    ((List.range (2 ^ eta m)).map fun x =>
        let c := point m (msbBits (eta m) (BitVec.ofNat 8 x))
        c.1 * c.1 + c.2 * c.2).sum = ((2 ^ eta m * energy m : Nat) : Int)

/-- 46_mapper.md R284: points that differ in one coordinate by one level (a distance of 2) differ in exactly one
bit. -/
def Obligations.ConstellationIsGrayCoded : Prop :=
  ∀ (m : Modulation) (ys zs : List Bool), ys.length = eta m → zs.length = eta m →
    (((point m ys).1 = (point m zs).1 ∧ (point m ys).2 = (point m zs).2 + 2) ∨
      ((point m ys).2 = (point m zs).2 ∧ (point m ys).1 = (point m zs).1 + 2)) →
    ((List.range (eta m)).filter fun j => ys.getD j false != zs.getD j false).length = 1

/-! ### ASSEMBLE and PAYLOAD -/

/-- 47_assembler.md R303, R304: ASSEMBLE. While it runs STATE reads one of its stages' codes (R300): 1 to 6, 8 and 9, and 7
only for POST with L1_MOD 2 or 3. -/
def Obligations.AssembleProducesTheFrame : Prop :=
  ∀ (r : Rec) (s : State),
    let i := assembleOf r
    let d := s.store.dp.recs.get r
    let ws := (s.params.schema.get r).at s.actCfg
    let m := match r with | .pre => .bpsk | .post => l1Mod s.actCfg
    let w : Word := match r with | .pre => 0x20000000#32 | .post => 0x20100000#32
    decode w = some i ∧
    (∀ u : State, u.busy = true → u.latch = w →
      stageField u ∈ [1, 2, 3, 4, 5, 6, 8, 9] ∨
        (stageField u = 7 ∧ r = .post ∧ (u.actCfg.toNat / 128 % 16 = 2 ∨ u.actCfg.toNat / 128 % 16 = 3))) ∧
    NeedsConfiguration i s ∧
    (s.configured = true → s.outReq.toNat ≠ d.nSym → EndsInError i s 0x07 (s.outReq.setWidth 32)) ∧
    (s.configured = true → s.outReq.toNat = d.nSym → ws.sum ≠ (s.params.expLen.get r).at s.actCfg →
      EndsInError i s 0x04 (BitVec.ofNat 32 ws.sum)) ∧
    (s.Inv → s.configured = true → s.outReq.toNat = d.nSym → ws.sum = (s.params.expLen.get r).at s.actCfg →
      ∃ t, exec i s = .next t ∧
        t = { s with
          fb := t.fb, ob := t.ob, cursor := t.cursor, puncCount := t.puncCount, removedCount := t.removedCount
          outCount := t.outCount, outMod := t.outMod
          crcValue := crc32 (packedBits ws (s.slots.get r)), done := true, busy := false } ∧
        t.cursor.toNat = d.nFec ∧ t.puncCount.toNat = d.nPunc ∧ t.removedCount.toNat = (d.kBch - d.kSig) + d.nPunc ∧
        t.outCount.toNat = d.nSym ∧ t.outMod.toNat = outModValue s.actCfg (match r with | .pre => .pre | .post => .post) ∧
        (sentBits s r).length = d.nFec ∧ HoldsBits t.fb 0 (sentBits s r) ∧ (∀ k, d.nFec ≤ k → t.fb.elem k = none) ∧
        EmitsSymbols s t (s.actCfg.getLsbD 14) m d.nSym (sentBits s r))

/-- 47_assembler.md R305: in every state that a run can reach, ASSEMBLE fails only with ERR_NOTCFG, ERR_OUTSIZE or PACK's
ERR_LEN(W), before it writes anything, or completes. -/
def Obligations.AssembleFailsOnlyBeforeItWrites : Prop :=
  ∀ (r : Rec) (s t : State), s.Inv → s.err = false → exec (assembleOf r) s = .next t → t.err = true →
    (s.configured = false ∧ t = { s with err := true, errCode := 0x02, errInfo := s.latch, busy := false }) ∨
      (s.configured = true ∧
        (t = { s with err := true, errCode := 0x07, errInfo := s.outReq.setWidth 32, busy := false } ∨
          t = { s with
            err := true, errCode := 0x04, errInfo := BitVec.ofNat 32 ((s.params.schema.get r).at s.actCfg).sum
            busy := false }))

/-- 47_assembler.md R302, R306: ASSEMBLE's result depends only on FIELD_rec, OUT_REQ, ACTCFG and the configuration store:
two states that agree on these produce the same frame, whatever else they hold. -/
def Obligations.AssembleIsStatelessAcrossFrames : Prop :=
  ∀ (r : Rec) (s s' t : State), SameAssembleInputs r s s' → s.err = false → s'.err = false →
    exec (assembleOf r) s = .next t →
    ∃ t', exec (assembleOf r) s' = .next t' ∧ t'.err = t.err ∧ t'.errCode = (if t.err then t.errCode else s'.errCode) ∧
      (t.err = false →
        t'.fb = t.fb ∧ t'.cursor = t.cursor ∧ t'.crcValue = t.crcValue ∧ t'.puncCount = t.puncCount ∧
          t'.removedCount = t.removedCount ∧ t'.outCount = t.outCount ∧ t'.outMod = t.outMod ∧
          ∀ k, k < t.outCount.toNat → t'.ob.read k = t.ob.read k)

/-- 47_assembler.md R307, 70_reset_and_hazards.md R374: PAYLOAD. Whatever else the frame buffer holds, the end is the one from
a fresh frame buffer into which the frame alone was written. That the frame is FB[0 .. L-1] as it stands when PAYLOAD is
issued, whoever wrote it, is log 19's reading. -/
def Obligations.PayloadProducesTheFrame : Prop :=
  ∀ s : State,
    let l := if s.actCfg.getLsbD 0 then 16200 else 64800
    let m := payMod s.actCfg
    IsCommand .payload 0x21000000#32 [7, 8, 9] ∧
    NeedsConfiguration .payload s ∧
    (s.configured = true → s.outReq ≠ s.store.regs.nSymPay → EndsInError .payload s 0x07 (s.outReq.setWidth 32)) ∧
    (s.Inv → s.configured = true → s.outReq = s.store.regs.nSymPay →
      ReportsFirstBadBit .payload s l ∧
      ∀ bs : List Bool, bs.length = l → HoldsBits s.fb 0 bs →
        exec .payload s = exec .payload { s with fb := Memory.invalid.writeBits 0 bs } ∧
        ∃ t, exec .payload s = .next t ∧
          t = { s with
            fb := t.fb, ob := t.ob, cursor := 0, outCount := t.outCount, outMod := t.outMod
            done := true, busy := false } ∧
          (∀ k, t.fb.elem k = none) ∧ t.outCount = s.store.regs.nSymPay ∧
          t.outMod.toNat = outModValue s.actCfg .pay ∧
          EmitsSymbols s t (s.actCfg.getLsbD 14) m (l / eta m)
            (interleavedBy (cols m (cfgFsize s.actCfg)) s.store.dp.payTables bs))

/-! ### The invariant -/

/-- 10_state.md R61, 20_memory.md R81 to R90: the invariant holds at reset. -/
def Obligations.ResetMeetsTheInvariant : Prop := State.reset.Inv

/-- Every step from a state that meets the invariant leaves a state that meets it: the buffers keep their canonical form,
BUSY, DONE, ERR, ERRCODE and ERR_INFO agree (10_state.md R33 to R35), and CONFIGURED = 1 means that ACTCFG passes every
check and the store is the one computed from it (R36, 40_control.md R147). -/
def Obligations.EveryStepKeepsTheInvariant : Prop :=
  ∀ s t : State, s.Inv → step s = .next t → t.Inv
end

