-- ==== Sys2Proof/Laws/Cells.lean ====
section
/-! SUPPORT. What the buffer operations do: a read after a write, the rest left alone, and the canonical form kept
(log 8). -/

namespace Sys2Proof.Machine

open Sys2Proof

variable {α : Type}

/-! ### Lists of cells -/

theorem cellAt_append (k : Nat) (m n : List (Nat × α)) :
    cellAt k (m ++ n) = (cellAt k m).or (cellAt k n) := by
  induction m with
  | nil => simp [cellAt]
  | cons c m ih =>
    obtain ⟨i, v⟩ := c
    by_cases h : i = k <;> simp [cellAt, h, ih]

theorem cellAt_eq_none {k : Nat} {m : List (Nat × α)} : cellAt k m = none ↔ ∀ c ∈ m, c.1 ≠ k := by
  induction m with
  | nil => simp [cellAt]
  | cons c m ih =>
    obtain ⟨i, v⟩ := c
    by_cases h : i = k <;> simp [cellAt, h, ih]

theorem mem_of_cellAt {k : Nat} {v : α} {m : List (Nat × α)} (h : cellAt k m = some v) : (k, v) ∈ m := by
  induction m with
  | nil => simp [cellAt] at h
  | cons c m ih =>
    obtain ⟨i, u⟩ := c
    by_cases hi : i = k
    · simp [cellAt, hi] at h; simp [hi, h]
    · simp [cellAt, hi] at h; exact List.mem_cons_of_mem _ (ih h)

/-- A filter that keeps or drops an index whatever its value. -/
theorem cellAt_filter_index (p : Nat → Bool) (k : Nat) (m : List (Nat × α)) :
    cellAt k (m.filter (fun c => p c.1)) = if p k then cellAt k m else none := by
  induction m with
  | nil => simp [cellAt]
  | cons c m ih =>
    obtain ⟨i, v⟩ := c
    by_cases hp : p i
    · by_cases hi : i = k
      · subst hi; simp [hp, cellAt]
      · simp [hp, cellAt, hi, ih]
    · by_cases hi : i = k
      · subst hi; simp [hp, ih]
      · simp [hp, cellAt, hi, ih]

theorem length_cellsFrom (base : Nat) (vs : List α) : (cellsFrom base vs).length = vs.length := by
  induction vs generalizing base with
  | nil => rfl
  | cons v vs ih => simp [cellsFrom, ih]

theorem cellsFrom_index {base : Nat} {vs : List α} {c : Nat × α} (h : c ∈ cellsFrom base vs) :
    base ≤ c.1 ∧ c.1 < base + vs.length := by
  induction vs generalizing base with
  | nil => simp [cellsFrom] at h
  | cons v vs ih =>
    simp only [cellsFrom, List.mem_cons] at h
    rcases h with rfl | h
    · simp
    · have := ih h; simp; omega

theorem cellsFrom_ascending (base : Nat) (vs : List α) : (cellsFrom base vs).Pairwise (fun c d => c.1 < d.1) := by
  induction vs generalizing base with
  | nil => simp [cellsFrom]
  | cons v vs ih =>
    refine List.pairwise_cons.2 ⟨fun c hc => ?_, ih _⟩
    have := cellsFrom_index hc
    show base < c.1
    omega

theorem cellAt_cellsFrom (base j : Nat) (vs : List α) : cellAt (base + j) (cellsFrom base vs) = vs[j]? := by
  induction vs generalizing base j with
  | nil => simp [cellsFrom, cellAt]
  | cons v vs ih =>
    cases j with
    | zero => simp [cellsFrom, cellAt]
    | succ j =>
      have : base + (j + 1) = base + 1 + j := by omega
      rw [cellsFrom, cellAt, if_neg (by omega), this, ih]
      simp

/-- Outside the spliced range the cells are as before; inside they are those of `new`. -/
theorem cellAt_splice {base n : Nat} {new : List (Nat × α)} (m : List (Nat × α))
    (hnew : ∀ c ∈ new, base ≤ c.1 ∧ c.1 < base + n) (k : Nat) :
    cellAt k (splice m base n new) = if base ≤ k ∧ k < base + n then cellAt k new else cellAt k m := by
  unfold splice
  rw [cellAt_append, cellAt_append, cellAt_filter_index (fun i => decide (i < base)),
    cellAt_filter_index (fun i => decide (base + n ≤ i))]
  have hout : ¬ (base ≤ k ∧ k < base + n) → cellAt k new = none := fun h =>
    cellAt_eq_none.2 (fun c hc hk => h (hk ▸ hnew c hc))
  by_cases h1 : k < base
  · have h2 : ¬ (base ≤ k ∧ k < base + n) := by omega
    have h3 : ¬ base + n ≤ k := by omega
    simp [h1, h2, h3, hout h2]
  · by_cases h3 : base + n ≤ k
    · have h2 : ¬ (base ≤ k ∧ k < base + n) := by omega
      simp [h1, h2, h3, hout h2]
    · have h2 : base ≤ k ∧ k < base + n := by omega
      simp [h1, h2, h3]

/-- Splicing keeps the rising order. -/
theorem splice_ascending {base n : Nat} {m new : List (Nat × α)} (hm : m.Pairwise (fun c d => c.1 < d.1))
    (hnew : new.Pairwise (fun c d => c.1 < d.1)) (hrange : ∀ c ∈ new, base ≤ c.1 ∧ c.1 < base + n) :
    (splice m base n new).Pairwise (fun c d => c.1 < d.1) := by
  unfold splice
  rw [List.append_assoc]
  refine List.pairwise_append.2 ⟨hm.filter _, List.pairwise_append.2 ⟨hnew, hm.filter _, ?_⟩, ?_⟩
  · intro c hc d hd
    have := hrange c hc
    simp at hd
    omega
  · intro c hc d hd
    simp only [List.mem_filter, List.mem_append, decide_eq_true_eq] at hc hd
    rcases hd with hd | hd
    · have := hrange d hd; omega
    · omega

theorem mem_splice {base n : Nat} {m new : List (Nat × α)} {c : Nat × α} (h : c ∈ splice m base n new) :
    c ∈ m ∨ c ∈ new := by
  simp only [splice, List.mem_append, List.mem_filter] at h
  tauto

/-! ### The frame buffer -/

/-- What a write of consecutive elements leaves in each element. -/
theorem Memory.elem_write (m : Memory) (base : Nat) (vs : List Byte) (k : Nat) :
    (m.write base vs).elem k =
      if base ≤ k ∧ k < base + vs.length then (if k < nMax then vs[k - base]? else none) else m.elem k := by
  unfold Memory.write Memory.elem
  rw [cellAt_splice m (fun c hc => cellsFrom_index (List.mem_filter.1 hc).1)]
  by_cases h : base ≤ k ∧ k < base + vs.length
  · rw [cellAt_filter_index (fun i => decide (i < nMax))]
    obtain ⟨j, rfl⟩ : ∃ j, k = base + j := ⟨k - base, by omega⟩
    simp [cellAt_cellsFrom]
  · simp [h]

theorem Memory.elem_write_outside (m : Memory) {base k : Nat} {vs : List Byte}
    (h : k < base ∨ base + vs.length ≤ k) : (m.write base vs).elem k = m.elem k := by
  rw [Memory.elem_write, if_neg (by omega)]

theorem Memory.elem_writeBits_outside (m : Memory) {base k : Nat} {bs : List Bool}
    (h : k < base ∨ base + bs.length ≤ k) : (m.writeBits base bs).elem k = m.elem k :=
  Memory.elem_write_outside m (by simpa using h)

theorem Memory.elem_writeBits (m : Memory) {base j : Nat} {bs : List Bool} (hj : j < bs.length)
    (hk : base + j < nMax) : (m.writeBits base bs).elem (base + j) = some (bitByte bs[j]) := by
  unfold Memory.writeBits
  rw [Memory.elem_write, if_pos (by simp; omega), if_pos hk]
  simp [hj]

@[simp] theorem Memory.elem_invalid (k : Nat) : Memory.invalid.elem k = none := rfl

theorem Memory.wf_invalid : Memory.invalid.wf := by simp [Memory.wf, Memory.invalid]

/-- Every write keeps the frame buffer's canonical form. -/
theorem Memory.wf_write {m : Memory} (hm : m.wf) (base : Nat) (vs : List Byte) : (m.write base vs).wf := by
  constructor
  · refine splice_ascending hm.1 ((cellsFrom_ascending base vs).filter _) ?_
    exact fun c hc => cellsFrom_index (List.mem_filter.1 hc).1
  · intro c hc
    rcases mem_splice hc with h | h
    · exact hm.2 c h
    · simpa using (List.mem_filter.1 h).2

theorem Memory.wf_writeBits {m : Memory} (hm : m.wf) (base : Nat) (bs : List Bool) : (m.writeBits base bs).wf :=
  Memory.wf_write hm base _

/-- An element that is listed exists. -/
theorem Memory.elem_lt {m : Memory} (hm : m.wf) {k : Nat} {v : Byte} (h : m.elem k = some v) : k < nMax :=
  hm.2 _ (mem_of_cellAt h)

/-- An element that does not exist reads as one that is not listed (log 18). -/
theorem Memory.elem_beyond {m : Memory} (hm : m.wf) {k : Nat} (h : nMax ≤ k) : m.elem k = none := by
  cases he : m.elem k with
  | none => rfl
  | some v => exact absurd (Memory.elem_lt hm he) (Nat.not_lt.2 h)

/-! ### Word RAMs -/

theorem cellAt_filter_nonzero {m : List (Nat × Word)} (hm : m.Pairwise (fun c d => c.1 < d.1)) (k : Nat) :
    (cellAt k (m.filter (fun c => decide (c.2 ≠ 0)))).getD 0 = (cellAt k m).getD 0 := by
  induction m with
  | nil => simp [cellAt]
  | cons c m ih =>
    obtain ⟨i, v⟩ := c
    have hm' := List.pairwise_cons.1 hm
    by_cases hv : v = 0
    · rw [List.filter_cons_of_neg (by simp [hv]), ih hm'.2]
      by_cases hi : i = k
      · have : cellAt k m = none :=
          cellAt_eq_none.2 (fun c hc hk => by have := hm'.1 c hc; simp only at this; omega)
        simp [cellAt, hi, hv, this]
      · simp [cellAt, hi]
    · rw [List.filter_cons_of_pos (by simpa using hv)]
      by_cases hi : i = k
      · simp [cellAt, hi]
      · simp only [cellAt, if_neg hi]
        exact ih hm'.2

/-- What a write of consecutive entries leaves in each entry. -/
theorem WordRam.read_write (m : WordRam) (base : Nat) (vs : List Word) (i : Nat) :
    (m.write base vs).read i =
      if base ≤ i ∧ i < base + vs.length then vs.getD (i - base) 0 else m.read i := by
  unfold WordRam.write WordRam.read
  rw [cellAt_splice m (fun c hc => cellsFrom_index (List.mem_filter.1 hc).1)]
  by_cases h : base ≤ i ∧ i < base + vs.length
  · rw [if_pos h, if_pos h, cellAt_filter_nonzero (cellsFrom_ascending base vs)]
    obtain ⟨j, rfl⟩ : ∃ j, i = base + j := ⟨i - base, by omega⟩
    rw [cellAt_cellsFrom, Nat.add_sub_cancel_left]
    simp [List.getD]
  · rw [if_neg h, if_neg h]

theorem WordRam.read_write_outside (m : WordRam) {base i : Nat} {vs : List Word}
    (h : i < base ∨ base + vs.length ≤ i) : (m.write base vs).read i = m.read i := by
  rw [WordRam.read_write, if_neg (by omega)]

theorem WordRam.wf_empty (size : Nat) : WordRam.wf size [] := by simp [WordRam.wf]

/-- Every write inside the RAM keeps its canonical form. -/
theorem WordRam.wf_write {size : Nat} {m : WordRam} (hm : m.wf size) {base : Nat} {vs : List Word}
    (h : base + vs.length ≤ size) : (m.write base vs).wf size := by
  constructor
  · refine splice_ascending hm.1 ((cellsFrom_ascending base vs).filter _) ?_
    exact fun c hc => cellsFrom_index (List.mem_filter.1 hc).1
  · intro c hc
    rcases mem_splice hc with hc | hc
    · exact hm.2 c hc
    · have := cellsFrom_index (List.mem_filter.1 hc).1
      exact ⟨by omega, by simpa using (List.mem_filter.1 hc).2⟩

/-! ### At reset -/

/-- The buffers of the reset state are in canonical form. -/
theorem reset_buffers_wf :
    State.reset.fb.wf ∧ State.reset.ob.wf obSize ∧ State.reset.slots.pre.wf nfMax ∧ State.reset.slots.post.wf nfMax := by
  simp [State.reset, Memory.wf, WordRam.wf]

/-! ### Per-record values -/

@[simp] theorem PerRec.get_of {β : Type} (f : Rec → β) (r : Rec) : (PerRec.of f).get r = f r := by
  cases r <;> rfl

@[simp] theorem PerRec.get_set {β : Type} (p : PerRec β) (r q : Rec) (v : β) :
    (p.set r v).get q = if q = r then v else p.get q := by
  cases r <;> cases q <;> rfl

end Sys2Proof.Machine
end

