-- ==== Sys2Proof/Laws/Reads.lean ====
section
/-! SUPPORT. The checked read of a bit sequence (00_scope.md R12): on a frame buffer in canonical form it answers the
bits exactly when every element holds a valid bit, and otherwise the error of the lowest failing element. -/

namespace Sys2Proof.Machine

open Sys2Proof

theorem holdsBits_nil (m : Memory) (base : Nat) : HoldsBits m base [] := fun j h => absurd h (by simp)

theorem holdsBits_cons {m : Memory} {base : Nat} {b : Bool} {bs : List Bool} :
    HoldsBits m base (b :: bs) ↔ m.elem base = some (bitByte b) ∧ HoldsBits m (base + 1) bs := by
  constructor
  · refine fun h => ⟨h 0 (Nat.succ_pos _), fun j hj => ?_⟩
    have := h (j + 1) (by simpa using hj)
    rw [Nat.add_right_comm, Nat.add_assoc]
    simpa using this
  · rintro ⟨h0, h1⟩ j hj
    cases j with
    | zero => exact h0
    | succ j =>
      have := h1 j (by simpa using hj)
      rw [Nat.add_right_comm, Nat.add_assoc] at this
      simpa using this

theorem holdsBits_append {m : Memory} {base : Nat} {bs cs : List Bool} :
    HoldsBits m base (bs ++ cs) ↔ HoldsBits m base bs ∧ HoldsBits m (base + bs.length) cs := by
  induction bs generalizing base with
  | nil => simp [holdsBits_nil]
  | cons b bs ih =>
    rw [List.cons_append, holdsBits_cons, holdsBits_cons, ih, and_assoc, List.length_cons,
      show base + (bs.length + 1) = base + 1 + bs.length by omega]

/-- After a write of bits inside the buffer, the elements hold them. -/
theorem holdsBits_writeBits (m : Memory) {base : Nat} {bs : List Bool} (h : base + bs.length ≤ nMax) :
    HoldsBits (m.writeBits base bs) base bs :=
  fun j hj => Memory.elem_writeBits m hj (by omega)

/-- A write leaves bits outside its range as they are. -/
theorem holdsBits_writeBits_outside {m : Memory} {base : Nat} {bs : List Bool} {pos : Nat} {cs : List Bool}
    (h : HoldsBits m pos cs) (hd : pos + cs.length ≤ base ∨ base + bs.length ≤ pos) :
    HoldsBits (m.writeBits base bs) pos cs := by
  intro j hj
  rw [Memory.elem_writeBits_outside m (by omega)]
  exact h j hj

theorem bitOf_bitByte (k : Nat) (b : Bool) : bitOf k (bitByte b) = .ok b := by cases b <;> rfl

theorem bitOf_eq_ok {k : Nat} {v : Byte} {b : Bool} (h : bitOf k v = .ok b) : v = bitByte b := by
  unfold bitOf at h
  split at h
  · cases h
  · cases h
    have : v.toNat = 0 ∨ v.toNat = 1 := by omega
    rcases this with h | h
    · obtain rfl : v = 0 := BitVec.eq_of_toNat_eq (by simpa using h)
      rfl
    · obtain rfl : v = 1 := BitVec.eq_of_toNat_eq (by simpa using h)
      rfl

theorem bitOf_eq_error {k : Nat} {v : Byte} {e : CmdError} (h : bitOf k v = .error e) :
    e = .data k ∧ 1 < v.toNat := by
  unfold bitOf at h
  split at h
  · cases h; exact ⟨rfl, ‹_›⟩
  · cases h

/-- A listed element of a tail that starts above it. -/
theorem cellAt_tail {α : Type} {c : Nat × α} {m : List (Nat × α)}
    (hm : (c :: m).Pairwise (fun c d => c.1 < d.1)) {k : Nat} (hk : c.1 < k) :
    cellAt k (c :: m) = cellAt k m := by
  obtain ⟨i, v⟩ := c
  simp only at hk
  rw [cellAt, if_neg (by omega)]

theorem readBitsFrom_zero {m : Memory} {k : Nat} {bs : List Bool} :
    readBitsFrom m k 0 = .ok bs ↔ bs.length = 0 ∧ HoldsBits m k bs := by
  have h0 : readBitsFrom m k 0 = .ok [] := by cases m <;> rfl
  rw [h0]
  constructor
  · intro h
    cases h
    exact ⟨rfl, holdsBits_nil _ _⟩
  · rintro ⟨h, -⟩
    rw [List.length_eq_zero_iff.1 h]

theorem readBitsFrom_ok {m : Memory} (hm : m.Pairwise (fun c d => c.1 < d.1)) {k n : Nat} {bs : List Bool} :
    readBitsFrom m k n = .ok bs ↔ bs.length = n ∧ HoldsBits m k bs := by
  induction m generalizing k n bs with
  | nil =>
    cases n with
    | zero => exact readBitsFrom_zero
    | succ n =>
      simp only [readBitsFrom, reduceCtorEq, false_iff, not_and]
      intro hl h
      have := h 0 (by omega)
      simp [Memory.elem, cellAt] at this
  | cons c m ih =>
    obtain ⟨i, v⟩ := c
    have hm' := List.pairwise_cons.1 hm
    cases n with
    | zero => exact readBitsFrom_zero
    | succ n =>
      have htail : ∀ {p : Nat} {cs : List Bool}, i < p → (HoldsBits ((i, v) :: m) p cs ↔ HoldsBits m p cs) := by
        intro p cs hp
        unfold HoldsBits Memory.elem
        refine forall_congr' fun j => forall_congr' fun hj => ?_
        rw [cellAt_tail hm (by show i < p + j; omega)]
      unfold readBitsFrom
      by_cases h1 : i < k
      · rw [if_pos h1, ih hm'.2, htail h1]
      · rw [if_neg h1]
        by_cases h2 : i = k
        · subst h2
          rw [if_pos rfl]
          cases hb : bitOf i v with
          | error e =>
            simp only [reduceCtorEq, false_iff, not_and]
            intro hl h
            have h0 := h 0 (by omega)
            simp only [Memory.elem, cellAt, Nat.add_zero, if_true, Option.some.injEq] at h0
            rw [h0, bitOf_bitByte] at hb
            cases hb
          | ok b =>
            have hv := bitOf_eq_ok hb
            constructor
            · intro h
              cases hr : readBitsFrom m (i + 1) n with
              | error e => simp [hr] at h
              | ok cs =>
                simp only [hr, Except.ok.injEq] at h
                subst h
                have := (ih hm'.2).1 hr
                exact ⟨by simp [this.1], holdsBits_cons.2 ⟨by simp [Memory.elem, cellAt, hv],
                  (htail (by omega)).2 this.2⟩⟩
            · rintro ⟨hl, h⟩
              cases bs with
              | nil => simp at hl
              | cons b' cs =>
                have hc := holdsBits_cons.1 h
                have hb' : b' = b := by
                  have := hc.1
                  simp only [Memory.elem, cellAt, if_true, Option.some.injEq, hv] at this
                  have := congrArg (bitOf 0) this
                  simpa [bitOf_bitByte, eq_comm] using this
                have := (ih (k := i + 1) (n := n) (bs := cs) hm'.2).2
                  ⟨by simpa using hl, (htail (by omega)).1 hc.2⟩
                simp [this, hb']
        · rw [if_neg h2]
          simp only [reduceCtorEq, false_iff, not_and]
          intro hl h
          have h0 := h 0 (by omega)
          have : cellAt k ((i, v) :: m) = none := by
            refine cellAt_eq_none.2 (fun c hc => ?_)
            rcases List.mem_cons.1 hc with rfl | hc
            · exact h2
            · have := hm'.1 c hc
              simp only at this
              omega
          simp [Memory.elem, this] at h0

theorem readBitsFrom_error {m : Memory} (hm : m.Pairwise (fun c d => c.1 < d.1)) {k n : Nat} {e : CmdError}
    (h : readBitsFrom m k n = .error e) :
    ∃ bs : List Bool, bs.length < n ∧ HoldsBits m k bs ∧ FailsAt m (k + bs.length) e := by
  induction m generalizing k n with
  | nil =>
    cases n with
    | zero => simp [readBitsFrom] at h
    | succ n =>
      simp only [readBitsFrom, Except.error.injEq] at h
      exact ⟨[], by simp, holdsBits_nil _ _, .inl ⟨rfl, h.symm⟩⟩
  | cons c m ih =>
    obtain ⟨i, v⟩ := c
    have hm' := List.pairwise_cons.1 hm
    have htail : ∀ {p : Nat}, i < p → Memory.elem ((i, v) :: m) p = Memory.elem m p :=
      fun hp => cellAt_tail hm hp
    cases n with
    | zero => simp [readBitsFrom] at h
    | succ n =>
      unfold readBitsFrom at h
      by_cases h1 : i < k
      · rw [if_pos h1] at h
        obtain ⟨bs, hl, hb, hf⟩ := ih hm'.2 h
        refine ⟨bs, hl, fun j hj => by rw [htail (by omega)]; exact hb j hj, ?_⟩
        unfold FailsAt
        rw [htail (by omega)]
        exact hf
      · rw [if_neg h1] at h
        by_cases h2 : i = k
        · subst h2
          rw [if_pos rfl] at h
          cases hb : bitOf i v with
          | error e' =>
            simp only [hb, Except.error.injEq] at h
            obtain ⟨rfl, hv⟩ := bitOf_eq_error hb
            exact ⟨[], by simp, holdsBits_nil _ _, .inr ⟨v, by simp [Memory.elem, cellAt], hv, h.symm⟩⟩
          | ok b =>
            cases hr : readBitsFrom m (i + 1) n with
            | ok cs => simp [hb, hr] at h
            | error e' =>
              simp only [hb, hr, Except.error.injEq] at h
              subst h
              obtain ⟨bs, hl, hbs, hf⟩ := ih hm'.2 hr
              refine ⟨b :: bs, by simpa using hl, holdsBits_cons.2 ⟨by simp [Memory.elem, cellAt, bitOf_eq_ok hb],
                fun j hj => by rw [htail (by omega)]; exact hbs j hj⟩, ?_⟩
              unfold FailsAt at hf ⊢
              rw [List.length_cons, show i + (bs.length + 1) = i + 1 + bs.length by omega, htail (by omega)]
              exact hf
        · rw [if_neg h2] at h
          simp only [Except.error.injEq] at h
          refine ⟨[], by simp, holdsBits_nil _ _, .inl ⟨cellAt_eq_none.2 (fun c hc => ?_), h.symm⟩⟩
          rcases List.mem_cons.1 hc with rfl | hc
          · exact h2
          · have := hm'.1 c hc
            simp only at this
            simp only [List.length_nil]
            omega

/-- `readBits` answers `bs` exactly when elements 0 .. n-1 hold `bs`, valid. -/
theorem readBits_ok {m : Memory} (hm : m.wf) {n : Nat} {bs : List Bool} :
    readBits m n = .ok bs ↔ bs.length = n ∧ HoldsBits m 0 bs :=
  readBitsFrom_ok hm.1

/-- `readBits` answers an error exactly of the lowest element that is not a valid bit. -/
theorem readBits_error {m : Memory} (hm : m.wf) {n : Nat} {e : CmdError} (h : readBits m n = .error e) :
    ∃ bs : List Bool, bs.length < n ∧ HoldsBits m 0 bs ∧ FailsAt m bs.length e := by
  simpa using readBitsFrom_error hm.1 h

/-- The error of the lowest failing element is the one answered. -/
theorem readBits_eq_error {m : Memory} (hm : m.wf) {n : Nat} {e : CmdError} {bs : List Bool} (hn : bs.length < n)
    (hb : HoldsBits m 0 bs) (hf : FailsAt m bs.length e) : readBits m n = .error e := by
  have noBit : ∀ {k : Nat} {e' : CmdError} (b : Bool), FailsAt m k e' → m.elem k ≠ some (bitByte b) := by
    rintro k e' b (⟨h, -⟩ | ⟨v, h, hv, -⟩) h'
    · simp [h] at h'
    · rw [h] at h'
      cases h'
      cases b <;> simp [bitByte] at hv
  cases hr : readBits m n with
  | ok cs =>
    obtain ⟨hl, hc⟩ := (readBits_ok hm).1 hr
    exact absurd (by simpa using hc bs.length (by omega)) (noBit _ hf)
  | error e' =>
    obtain ⟨cs, -, hcb, hcf⟩ := readBits_error hm hr
    have hlen : cs.length = bs.length := by
      rcases Nat.lt_trichotomy cs.length bs.length with h | h | h
      · exact absurd (by simpa using hb cs.length h) (noBit _ hcf)
      · exact h
      · exact absurd (by simpa using hcb bs.length h) (noBit _ hf)
    rw [hlen] at hcf
    rcases hf with ⟨h1, rfl⟩ | ⟨v, h1, -, rfl⟩ <;> rcases hcf with ⟨h2, rfl⟩ | ⟨u, h2, -, rfl⟩
    · rfl
    · simp [h1] at h2
    · simp [h1] at h2
    · rfl

/-- A read past the last element of a frame buffer full of bits raises ERR_UNDEF of the first element that does not exist
(log 18). -/
theorem readBits_beyond {m : Memory} (hm : m.wf) {n : Nat} (hn : nMax < n) {bs : List Bool} (hl : bs.length = nMax)
    (hb : HoldsBits m 0 bs) : readBits m n = .error (.undef nMax) := by
  rw [← hl] at hn ⊢
  exact readBits_eq_error hm hn hb (.inl ⟨Memory.elem_beyond hm (by omega), rfl⟩)

end Sys2Proof.Machine
end

