-- ==== Sys2Proof/Laws/State.lean ====
section
/-! SUPPORT. One lemma per field for each named update of the state, so that no proof unfolds a record update. -/

namespace Sys2Proof.Machine

open Sys2Proof

section
variable (e : CmdError) (w v : Word) (s : State)

/-! `raise` -/

@[simp] theorem raise_ieDone : (raise e s).ieDone = s.ieDone := rfl
@[simp] theorem raise_ieErr : (raise e s).ieErr = s.ieErr := rfl
@[simp] theorem raise_busy : (raise e s).busy = false := rfl
@[simp] theorem raise_done : (raise e s).done = s.done := rfl
@[simp] theorem raise_err : (raise e s).err = true := rfl
@[simp] theorem raise_configured : (raise e s).configured = s.configured := rfl
@[simp] theorem raise_errCode : (raise e s).errCode = e.code := rfl
@[simp] theorem raise_errInfo : (raise e s).errInfo = e.info := rfl
@[simp] theorem raise_latch : (raise e s).latch = s.latch := rfl
@[simp] theorem raise_cfg0 : (raise e s).cfg0 = s.cfg0 := rfl
@[simp] theorem raise_actCfg : (raise e s).actCfg = s.actCfg := rfl
@[simp] theorem raise_cursor : (raise e s).cursor = s.cursor := rfl
@[simp] theorem raise_outReq : (raise e s).outReq = s.outReq := rfl
@[simp] theorem raise_outCount : (raise e s).outCount = s.outCount := rfl
@[simp] theorem raise_outMod : (raise e s).outMod = s.outMod := rfl
@[simp] theorem raise_crcValue : (raise e s).crcValue = s.crcValue := rfl
@[simp] theorem raise_puncCount : (raise e s).puncCount = s.puncCount := rfl
@[simp] theorem raise_removedCount : (raise e s).removedCount = s.removedCount := rfl
@[simp] theorem raise_store : (raise e s).store = s.store := rfl
@[simp] theorem raise_fb : (raise e s).fb = s.fb := rfl
@[simp] theorem raise_ob : (raise e s).ob = s.ob := rfl
@[simp] theorem raise_slots : (raise e s).slots = s.slots := rfl
@[simp] theorem raise_params : (raise e s).params = s.params := rfl
@[simp] theorem raise_inputs : (raise e s).inputs = s.inputs := rfl
@[simp] theorem raise_readData : (raise e s).readData = s.readData := rfl
@[simp] theorem raise_draws : (raise e s).draws = s.draws := rfl

/-! `finish` -/

@[simp] theorem finish_ieDone : (finish s).ieDone = s.ieDone := rfl
@[simp] theorem finish_ieErr : (finish s).ieErr = s.ieErr := rfl
@[simp] theorem finish_busy : (finish s).busy = false := rfl
@[simp] theorem finish_done : (finish s).done = true := rfl
@[simp] theorem finish_err : (finish s).err = s.err := rfl
@[simp] theorem finish_configured : (finish s).configured = s.configured := rfl
@[simp] theorem finish_errCode : (finish s).errCode = s.errCode := rfl
@[simp] theorem finish_errInfo : (finish s).errInfo = s.errInfo := rfl
@[simp] theorem finish_latch : (finish s).latch = s.latch := rfl
@[simp] theorem finish_cfg0 : (finish s).cfg0 = s.cfg0 := rfl
@[simp] theorem finish_actCfg : (finish s).actCfg = s.actCfg := rfl
@[simp] theorem finish_cursor : (finish s).cursor = s.cursor := rfl
@[simp] theorem finish_outReq : (finish s).outReq = s.outReq := rfl
@[simp] theorem finish_outCount : (finish s).outCount = s.outCount := rfl
@[simp] theorem finish_outMod : (finish s).outMod = s.outMod := rfl
@[simp] theorem finish_crcValue : (finish s).crcValue = s.crcValue := rfl
@[simp] theorem finish_puncCount : (finish s).puncCount = s.puncCount := rfl
@[simp] theorem finish_removedCount : (finish s).removedCount = s.removedCount := rfl
@[simp] theorem finish_store : (finish s).store = s.store := rfl
@[simp] theorem finish_fb : (finish s).fb = s.fb := rfl
@[simp] theorem finish_ob : (finish s).ob = s.ob := rfl
@[simp] theorem finish_slots : (finish s).slots = s.slots := rfl
@[simp] theorem finish_params : (finish s).params = s.params := rfl
@[simp] theorem finish_inputs : (finish s).inputs = s.inputs := rfl
@[simp] theorem finish_readData : (finish s).readData = s.readData := rfl
@[simp] theorem finish_draws : (finish s).draws = s.draws := rfl

/-! `acknowledge` -/

@[simp] theorem acknowledge_ieDone : (acknowledge v s).ieDone = s.ieDone := rfl
@[simp] theorem acknowledge_ieErr : (acknowledge v s).ieErr = s.ieErr := rfl
@[simp] theorem acknowledge_busy : (acknowledge v s).busy = s.busy := rfl
@[simp] theorem acknowledge_done : (acknowledge v s).done = (s.done && !v.getLsbD 1) := rfl
@[simp] theorem acknowledge_err : (acknowledge v s).err = (s.err && !v.getLsbD 2) := rfl
@[simp] theorem acknowledge_configured : (acknowledge v s).configured = s.configured := rfl
@[simp] theorem acknowledge_errCode : (acknowledge v s).errCode = if v.getLsbD 2 then 0 else s.errCode := rfl
@[simp] theorem acknowledge_errInfo : (acknowledge v s).errInfo = if v.getLsbD 2 then 0 else s.errInfo := rfl
@[simp] theorem acknowledge_latch : (acknowledge v s).latch = s.latch := rfl
@[simp] theorem acknowledge_cfg0 : (acknowledge v s).cfg0 = s.cfg0 := rfl
@[simp] theorem acknowledge_actCfg : (acknowledge v s).actCfg = s.actCfg := rfl
@[simp] theorem acknowledge_cursor : (acknowledge v s).cursor = s.cursor := rfl
@[simp] theorem acknowledge_outReq : (acknowledge v s).outReq = s.outReq := rfl
@[simp] theorem acknowledge_outCount : (acknowledge v s).outCount = s.outCount := rfl
@[simp] theorem acknowledge_outMod : (acknowledge v s).outMod = s.outMod := rfl
@[simp] theorem acknowledge_crcValue : (acknowledge v s).crcValue = s.crcValue := rfl
@[simp] theorem acknowledge_puncCount : (acknowledge v s).puncCount = s.puncCount := rfl
@[simp] theorem acknowledge_removedCount : (acknowledge v s).removedCount = s.removedCount := rfl
@[simp] theorem acknowledge_store : (acknowledge v s).store = s.store := rfl
@[simp] theorem acknowledge_fb : (acknowledge v s).fb = s.fb := rfl
@[simp] theorem acknowledge_ob : (acknowledge v s).ob = s.ob := rfl
@[simp] theorem acknowledge_slots : (acknowledge v s).slots = s.slots := rfl
@[simp] theorem acknowledge_params : (acknowledge v s).params = s.params := rfl
@[simp] theorem acknowledge_inputs : (acknowledge v s).inputs = s.inputs := rfl
@[simp] theorem acknowledge_readData : (acknowledge v s).readData = s.readData := rfl
@[simp] theorem acknowledge_draws : (acknowledge v s).draws = s.draws := rfl

/-! `latchCommand` -/

@[simp] theorem latchCommand_ieDone : (latchCommand w s).ieDone = s.ieDone := rfl
@[simp] theorem latchCommand_ieErr : (latchCommand w s).ieErr = s.ieErr := rfl
@[simp] theorem latchCommand_busy : (latchCommand w s).busy = true := rfl
@[simp] theorem latchCommand_done : (latchCommand w s).done = false := rfl
@[simp] theorem latchCommand_err : (latchCommand w s).err = s.err := rfl
@[simp] theorem latchCommand_configured : (latchCommand w s).configured = s.configured := rfl
@[simp] theorem latchCommand_errCode : (latchCommand w s).errCode = s.errCode := rfl
@[simp] theorem latchCommand_errInfo : (latchCommand w s).errInfo = s.errInfo := rfl
@[simp] theorem latchCommand_latch : (latchCommand w s).latch = w := rfl
@[simp] theorem latchCommand_cfg0 : (latchCommand w s).cfg0 = s.cfg0 := rfl
@[simp] theorem latchCommand_actCfg : (latchCommand w s).actCfg = s.actCfg := rfl
@[simp] theorem latchCommand_cursor : (latchCommand w s).cursor = s.cursor := rfl
@[simp] theorem latchCommand_outReq : (latchCommand w s).outReq = s.outReq := rfl
@[simp] theorem latchCommand_outCount : (latchCommand w s).outCount = s.outCount := rfl
@[simp] theorem latchCommand_outMod : (latchCommand w s).outMod = s.outMod := rfl
@[simp] theorem latchCommand_crcValue : (latchCommand w s).crcValue = s.crcValue := rfl
@[simp] theorem latchCommand_puncCount : (latchCommand w s).puncCount = s.puncCount := rfl
@[simp] theorem latchCommand_removedCount : (latchCommand w s).removedCount = s.removedCount := rfl
@[simp] theorem latchCommand_store : (latchCommand w s).store = s.store := rfl
@[simp] theorem latchCommand_fb : (latchCommand w s).fb = s.fb := rfl
@[simp] theorem latchCommand_ob : (latchCommand w s).ob = s.ob := rfl
@[simp] theorem latchCommand_slots : (latchCommand w s).slots = s.slots := rfl
@[simp] theorem latchCommand_params : (latchCommand w s).params = s.params := rfl
@[simp] theorem latchCommand_inputs : (latchCommand w s).inputs = .engine :: s.inputs := rfl
@[simp] theorem latchCommand_readData : (latchCommand w s).readData = s.readData := rfl
@[simp] theorem latchCommand_draws : (latchCommand w s).draws = s.draws := rfl

/-! `commitConfig` -/

@[simp] theorem commitConfig_ieDone : (commitConfig s).ieDone = s.ieDone := rfl
@[simp] theorem commitConfig_ieErr : (commitConfig s).ieErr = s.ieErr := rfl
@[simp] theorem commitConfig_busy : (commitConfig s).busy = s.busy := rfl
@[simp] theorem commitConfig_done : (commitConfig s).done = s.done := rfl
@[simp] theorem commitConfig_err : (commitConfig s).err = s.err := rfl
@[simp] theorem commitConfig_configured : (commitConfig s).configured = true := rfl
@[simp] theorem commitConfig_errCode : (commitConfig s).errCode = s.errCode := rfl
@[simp] theorem commitConfig_errInfo : (commitConfig s).errInfo = s.errInfo := rfl
@[simp] theorem commitConfig_latch : (commitConfig s).latch = s.latch := rfl
@[simp] theorem commitConfig_cfg0 : (commitConfig s).cfg0 = s.cfg0 := rfl
@[simp] theorem commitConfig_actCfg : (commitConfig s).actCfg = s.cfg0 := rfl
@[simp] theorem commitConfig_cursor : (commitConfig s).cursor = s.cursor := rfl
@[simp] theorem commitConfig_outReq : (commitConfig s).outReq = s.outReq := rfl
@[simp] theorem commitConfig_outCount : (commitConfig s).outCount = s.outCount := rfl
@[simp] theorem commitConfig_outMod : (commitConfig s).outMod = s.outMod := rfl
@[simp] theorem commitConfig_crcValue : (commitConfig s).crcValue = s.crcValue := rfl
@[simp] theorem commitConfig_puncCount : (commitConfig s).puncCount = s.puncCount := rfl
@[simp] theorem commitConfig_removedCount : (commitConfig s).removedCount = s.removedCount := rfl
@[simp] theorem commitConfig_store : (commitConfig s).store = storeOf s.params s.cfg0 := rfl
@[simp] theorem commitConfig_fb : (commitConfig s).fb = s.fb := rfl
@[simp] theorem commitConfig_ob : (commitConfig s).ob = s.ob := rfl
@[simp] theorem commitConfig_slots : (commitConfig s).slots = s.slots := rfl
@[simp] theorem commitConfig_params : (commitConfig s).params = s.params := rfl
@[simp] theorem commitConfig_inputs : (commitConfig s).inputs = s.inputs := rfl
@[simp] theorem commitConfig_readData : (commitConfig s).readData = s.readData := rfl
@[simp] theorem commitConfig_draws : (commitConfig s).draws = s.draws := rfl

/-! `resetCore` -/

@[simp] theorem resetCore_ieDone : (resetCore s).ieDone = false := rfl
@[simp] theorem resetCore_ieErr : (resetCore s).ieErr = false := rfl
@[simp] theorem resetCore_busy : (resetCore s).busy = false := rfl
@[simp] theorem resetCore_done : (resetCore s).done = false := rfl
@[simp] theorem resetCore_err : (resetCore s).err = false := rfl
@[simp] theorem resetCore_configured : (resetCore s).configured = false := rfl
@[simp] theorem resetCore_errCode : (resetCore s).errCode = 0 := rfl
@[simp] theorem resetCore_errInfo : (resetCore s).errInfo = 0 := rfl
@[simp] theorem resetCore_latch : (resetCore s).latch = 0 := rfl
@[simp] theorem resetCore_cfg0 : (resetCore s).cfg0 = 0 := rfl
@[simp] theorem resetCore_actCfg : (resetCore s).actCfg = 0 := rfl
@[simp] theorem resetCore_cursor : (resetCore s).cursor = 0 := rfl
@[simp] theorem resetCore_outReq : (resetCore s).outReq = 0 := rfl
@[simp] theorem resetCore_outCount : (resetCore s).outCount = 0 := rfl
@[simp] theorem resetCore_outMod : (resetCore s).outMod = 0 := rfl
@[simp] theorem resetCore_crcValue : (resetCore s).crcValue = 0 := rfl
@[simp] theorem resetCore_puncCount : (resetCore s).puncCount = 0 := rfl
@[simp] theorem resetCore_removedCount : (resetCore s).removedCount = 0 := rfl
@[simp] theorem resetCore_store : (resetCore s).store = ConfigStore.reset := rfl
@[simp] theorem resetCore_fb : (resetCore s).fb = [] := rfl
@[simp] theorem resetCore_ob : (resetCore s).ob = [] := rfl
@[simp] theorem resetCore_slots : (resetCore s).slots = { pre := [], post := [] } := rfl
@[simp] theorem resetCore_params : (resetCore s).params = s.params := rfl
@[simp] theorem resetCore_inputs : (resetCore s).inputs = s.inputs := rfl
@[simp] theorem resetCore_readData : (resetCore s).readData = s.readData := rfl
@[simp] theorem resetCore_draws : (resetCore s).draws = s.draws := rfl

/-! `issue` -/

@[simp] theorem issue_ieDone : (issue w s).ieDone = s.ieDone := by
  unfold issue; split <;> rfl
@[simp] theorem issue_ieErr : (issue w s).ieErr = s.ieErr := by
  unfold issue; split <;> rfl
@[simp] theorem issue_busy : (issue w s).busy = ((!s.err || s.busy)) := by
  unfold issue; split <;> simp_all
@[simp] theorem issue_done : (issue w s).done = ((s.err && s.done)) := by
  unfold issue; split <;> simp_all
@[simp] theorem issue_err : (issue w s).err = s.err := by
  unfold issue; split <;> rfl
@[simp] theorem issue_configured : (issue w s).configured = s.configured := by
  unfold issue; split <;> rfl
@[simp] theorem issue_errCode : (issue w s).errCode = s.errCode := by
  unfold issue; split <;> rfl
@[simp] theorem issue_errInfo : (issue w s).errInfo = s.errInfo := by
  unfold issue; split <;> rfl
@[simp] theorem issue_latch : (issue w s).latch = (if s.err then s.latch else w) := by
  unfold issue; split <;> simp_all
@[simp] theorem issue_cfg0 : (issue w s).cfg0 = s.cfg0 := by
  unfold issue; split <;> rfl
@[simp] theorem issue_actCfg : (issue w s).actCfg = s.actCfg := by
  unfold issue; split <;> rfl
@[simp] theorem issue_cursor : (issue w s).cursor = s.cursor := by
  unfold issue; split <;> rfl
@[simp] theorem issue_outReq : (issue w s).outReq = s.outReq := by
  unfold issue; split <;> rfl
@[simp] theorem issue_outCount : (issue w s).outCount = s.outCount := by
  unfold issue; split <;> rfl
@[simp] theorem issue_outMod : (issue w s).outMod = s.outMod := by
  unfold issue; split <;> rfl
@[simp] theorem issue_crcValue : (issue w s).crcValue = s.crcValue := by
  unfold issue; split <;> rfl
@[simp] theorem issue_puncCount : (issue w s).puncCount = s.puncCount := by
  unfold issue; split <;> rfl
@[simp] theorem issue_removedCount : (issue w s).removedCount = s.removedCount := by
  unfold issue; split <;> rfl
@[simp] theorem issue_store : (issue w s).store = s.store := by
  unfold issue; split <;> rfl
@[simp] theorem issue_fb : (issue w s).fb = s.fb := by
  unfold issue; split <;> rfl
@[simp] theorem issue_ob : (issue w s).ob = s.ob := by
  unfold issue; split <;> rfl
@[simp] theorem issue_slots : (issue w s).slots = s.slots := by
  unfold issue; split <;> rfl
@[simp] theorem issue_params : (issue w s).params = s.params := by
  unfold issue; split <;> rfl
@[simp] theorem issue_inputs : (issue w s).inputs = s.inputs := by
  unfold issue; split <;> rfl
@[simp] theorem issue_readData : (issue w s).readData = s.readData := by
  unfold issue; split <;> rfl
@[simp] theorem issue_draws : (issue w s).draws = s.draws := by
  unfold issue; split <;> rfl

end

end Sys2Proof.Machine
end

