-- ==== Sys2Proof/Laws/Commands.lean ====
section
/-! SUPPORT. What the shared shapes of a command can answer, and for each command body: when it answers a state and
which, and which errors it raises. -/

namespace Sys2Proof.Machine

open Sys2Proof

/-! ### The end of a command -/

theorem runAlways_ok {body : Body} {s t : State} (h : body s = .ok t) : runAlways body s = .next (finish t) := by
  simp [runAlways, h]

theorem runAlways_error {body : Body} {s : State} {e : CmdError} (h : body s = .error e) :
    runAlways body s = .next (raise e s) := by
  simp [runAlways, h]

/-- A command with cfg = 0 ends in success with what its body leaves, or in its body's error. -/
theorem runAlways_cases (body : Body) (s : State) :
    (∃ t, body s = .ok t ∧ runAlways body s = .next (finish t)) ∨
      ∃ e, body s = .error e ∧ runAlways body s = .next (raise e s) := by
  cases h : body s with
  | ok t => exact .inl ⟨t, rfl, runAlways_ok h⟩
  | error e => exact .inr ⟨e, rfl, runAlways_error h⟩

theorem runConfigured_of_configured {body : Body} {s : State} (h : s.configured = true) :
    runConfigured body s = runAlways body s := by
  simp [runConfigured, h]

theorem runConfigured_of_not {body : Body} {s : State} (h : s.configured = false) :
    runConfigured body s = .next (raise (.notCfg s.latch) s) := by
  simp [runConfigured, h]

/-- A command with cfg = 1 ends in ERR_NOTCFG, in success with what its body leaves, or in its body's error. -/
theorem runConfigured_cases (body : Body) (s : State) :
    (s.configured = false ∧ runConfigured body s = .next (raise (.notCfg s.latch) s)) ∨
      (s.configured = true ∧ ∃ t, body s = .ok t ∧ runConfigured body s = .next (finish t)) ∨
      (s.configured = true ∧ ∃ e, body s = .error e ∧ runConfigured body s = .next (raise e s)) := by
  cases hc : s.configured with
  | false => exact .inl ⟨rfl, runConfigured_of_not hc⟩
  | true =>
    rw [runConfigured_of_configured hc]
    rcases runAlways_cases body s with h | h
    · exact .inr (.inl ⟨rfl, h⟩)
    · exact .inr (.inr ⟨rfl, h⟩)

/-- Two stages answer a state when both do. -/
theorem andThen_ok {f g : Body} {s u : State} : andThen f g s = .ok u ↔ ∃ t, f s = .ok t ∧ g t = .ok u := by
  unfold andThen
  cases f s <;> simp

/-- Two stages raise the first's error, or the second's after the first. -/
theorem andThen_error {f g : Body} {s : State} {e : CmdError} :
    andThen f g s = .error e ↔ f s = .error e ∨ ∃ t, f s = .ok t ∧ g t = .error e := by
  unfold andThen
  cases f s <;> simp

/-! ### CONFIGURE -/

/-- CONFIGURE commits when no check fails; otherwise it raises ERR_CONFIG with the number of the first that does and
clears CONFIGURED. -/
theorem execConfigure_cases (s : State) :
    (failedCheck s.params s.cfg0 = none ∧ execConfigure s = .next (finish (commitConfig s))) ∨
      ∃ n, failedCheck s.params s.cfg0 = some n ∧
        execConfigure s = .next (raise (.config n) { s with configured := false }) := by
  unfold execConfigure
  cases h : failedCheck s.params s.cfg0 with
  | none => exact .inl ⟨rfl, rfl⟩
  | some n => exact .inr ⟨n, rfl, rfl⟩

theorem firstFailing_none {l : List (Nat × Bool)} : firstFailing l = none ↔ ∀ c ∈ l, c.2 = true := by
  induction l with
  | nil => simp [firstFailing]
  | cons c l ih =>
    obtain ⟨n, ok⟩ := c
    cases ok <;> simp [firstFailing, ih]

/-! ### The command bodies -/

theorem packBody_ok {r : Rec} {s t : State} :
    packBody r s = .ok t ↔
      (schemaOf s.params s.actCfg r).sum = expLenOf s.params s.actCfg r ∧
        t = { s with
          fb := Memory.invalid.writeBits 0 (packedBits (schemaOf s.params s.actCfg r) (s.slots.get r))
          cursor := BitVec.ofNat 17 (schemaOf s.params s.actCfg r).sum } := by
  unfold packBody
  by_cases h : (schemaOf s.params s.actCfg r).sum = expLenOf s.params s.actCfg r
  · simp [h, eq_comm]
  · simp [h]

theorem packBody_error {r : Rec} {s : State} {e : CmdError} :
    packBody r s = .error e ↔
      (schemaOf s.params s.actCfg r).sum ≠ expLenOf s.params s.actCfg r ∧
        e = .len (schemaOf s.params s.actCfg r).sum := by
  unfold packBody
  by_cases h : (schemaOf s.params s.actCfg r).sum = expLenOf s.params s.actCfg r
  · simp [h]
  · simp [h, eq_comm]

theorem crcBody_ok {s t : State} :
    crcBody s = .ok t ↔
      s.cursor.toNat + 32 ≤ nMax ∧ ∃ bs, readBits s.fb s.cursor.toNat = .ok bs ∧
        t = { s with
          fb := s.fb.writeBits s.cursor.toNat (msbBits 32 (crc32 bs))
          cursor := BitVec.ofNat 17 (s.cursor.toNat + 32)
          crcValue := crc32 bs } := by
  unfold crcBody
  by_cases h : nMax < s.cursor.toNat + 32
  · simp [h]
  · cases hr : readBits s.fb s.cursor.toNat <;> simp [hr, h, Nat.not_lt.1 h, eq_comm]

theorem crcBody_error {s : State} {e : CmdError} :
    crcBody s = .error e ↔
      (nMax < s.cursor.toNat + 32 ∧ e = .len s.cursor.toNat) ∨
        (s.cursor.toNat + 32 ≤ nMax ∧ readBits s.fb s.cursor.toNat = .error e) := by
  unfold crcBody
  by_cases h : nMax < s.cursor.toNat + 32
  · simp [h, Nat.not_le.2 h, eq_comm]
  · cases hr : readBits s.fb s.cursor.toNat <;> simp [hr, h, Nat.not_lt.1 h]

theorem padBody_ok {r : Rec} {s t : State} :
    padBody r s = .ok t ↔
      s.cursor.toNat = (s.store.dp.recs.get r).kSig ∧
        t = { s with
          fb := s.fb.writeBits (s.store.dp.recs.get r).kSig
            (List.replicate ((s.store.dp.recs.get r).kBch - (s.store.dp.recs.get r).kSig) false)
          cursor := BitVec.ofNat 17 (s.store.dp.recs.get r).kBch } := by
  unfold padBody
  by_cases h : s.cursor.toNat = (s.store.dp.recs.get r).kSig
  · simp [h, eq_comm]
  · simp [h]

theorem padBody_error {r : Rec} {s : State} {e : CmdError} :
    padBody r s = .error e ↔ s.cursor.toNat ≠ (s.store.dp.recs.get r).kSig ∧ e = .len s.cursor.toNat := by
  unfold padBody
  by_cases h : s.cursor.toNat = (s.store.dp.recs.get r).kSig
  · simp [h]
  · simp [h, eq_comm]

theorem bchBody_ok {r : Rec} {s t : State} :
    bchBody r s = .ok t ↔
      s.cursor.toNat = (s.store.dp.recs.get r).kBch ∧
        ∃ ms, readBits s.fb (s.store.dp.recs.get r).kBch = .ok ms ∧
          t = { s with
            fb := s.fb.writeBits (s.store.dp.recs.get r).kBch (bchParity s.store.gen ms)
            cursor := BitVec.ofNat 17 ((s.store.dp.recs.get r).kBch + nBchParity) } := by
  unfold bchBody
  by_cases h : s.cursor.toNat = (s.store.dp.recs.get r).kBch
  · cases hr : readBits s.fb (s.store.dp.recs.get r).kBch <;> simp [hr, h, eq_comm]
  · simp [h]

theorem bchBody_error {r : Rec} {s : State} {e : CmdError} :
    bchBody r s = .error e ↔
      (s.cursor.toNat ≠ (s.store.dp.recs.get r).kBch ∧ e = .len s.cursor.toNat) ∨
        (s.cursor.toNat = (s.store.dp.recs.get r).kBch ∧
          readBits s.fb (s.store.dp.recs.get r).kBch = .error e) := by
  unfold bchBody
  by_cases h : s.cursor.toNat = (s.store.dp.recs.get r).kBch
  · cases hr : readBits s.fb (s.store.dp.recs.get r).kBch <;> simp [hr, h]
  · simp [h, eq_comm]

theorem ldpcBody_ok {r : Rec} {s t : State} :
    ldpcBody r s = .ok t ↔
      s.cursor.toNat = (s.store.dp.recs.get r).kLdpc ∧
        ∃ ms, readBits s.fb (s.store.dp.recs.get r).kLdpc = .ok ms ∧
          t = { s with
            fb := s.fb.writeBits (s.store.dp.recs.get r).kLdpc
              (ldpcParity (s.store.sched.get r) ms (s.store.dp.recs.get r).pBits)
            cursor := BitVec.ofNat 17 ((s.store.dp.recs.get r).kLdpc + (s.store.dp.recs.get r).pBits) } := by
  unfold ldpcBody
  by_cases h : s.cursor.toNat = (s.store.dp.recs.get r).kLdpc
  · cases hr : readBits s.fb (s.store.dp.recs.get r).kLdpc <;> simp [hr, h, eq_comm]
  · simp [h]

theorem ldpcBody_error {r : Rec} {s : State} {e : CmdError} :
    ldpcBody r s = .error e ↔
      (s.cursor.toNat ≠ (s.store.dp.recs.get r).kLdpc ∧ e = .len s.cursor.toNat) ∨
        (s.cursor.toNat = (s.store.dp.recs.get r).kLdpc ∧
          readBits s.fb (s.store.dp.recs.get r).kLdpc = .error e) := by
  unfold ldpcBody
  by_cases h : s.cursor.toNat = (s.store.dp.recs.get r).kLdpc
  · cases hr : readBits s.fb (s.store.dp.recs.get r).kLdpc <;> simp [hr, h]
  · simp [h, eq_comm]

theorem punctureBody_ok {r : Rec} {s t : State} :
    punctureBody r s = .ok t ↔
      s.cursor.toNat = s.params.nLdpcSig ∧
        ∃ bs, readBits s.fb s.params.nLdpcSig = .ok bs ∧
          t = { s with
            fb := Memory.invalid.writeBits 0 (punctured (s.store.dp.recs.get r) bs)
            cursor := BitVec.ofNat 17 (s.store.dp.recs.get r).nFec
            puncCount := BitVec.ofNat 16 (s.store.dp.recs.get r).nPunc
            removedCount := BitVec.ofNat 16 (((s.store.dp.recs.get r).kBch - (s.store.dp.recs.get r).kSig) +
              (s.store.dp.recs.get r).nPunc) } := by
  unfold punctureBody
  by_cases h : s.cursor.toNat = s.params.nLdpcSig
  · cases hr : readBits s.fb s.params.nLdpcSig <;> simp [h, eq_comm]
  · simp [h]

theorem punctureBody_error {r : Rec} {s : State} {e : CmdError} :
    punctureBody r s = .error e ↔
      (s.cursor.toNat ≠ s.params.nLdpcSig ∧ e = .len s.cursor.toNat) ∨
        (s.cursor.toNat = s.params.nLdpcSig ∧ readBits s.fb s.params.nLdpcSig = .error e) := by
  unfold punctureBody
  by_cases h : s.cursor.toNat = s.params.nLdpcSig
  · cases hr : readBits s.fb s.params.nLdpcSig <;> simp [h]
  · simp [h, eq_comm]

theorem interleavePayBody_ok {s t : State} :
    interleavePayBody s = .ok t ↔
      s.cursor.toNat = s.store.dp.nFrame ∧
        ∃ bs, readBits s.fb s.store.dp.nFrame = .ok bs ∧
          t = { s with fb := s.fb.writeBits 0 (interleavedBy (payCols s.actCfg) s.store.dp.payTables bs) } := by
  unfold interleavePayBody
  by_cases h : s.cursor.toNat = s.store.dp.nFrame
  · cases hr : readBits s.fb s.store.dp.nFrame <;> simp [h, eq_comm]
  · simp [h]

theorem interleavePayBody_error {s : State} {e : CmdError} :
    interleavePayBody s = .error e ↔
      (s.cursor.toNat ≠ s.store.dp.nFrame ∧ e = .len s.cursor.toNat) ∨
        (s.cursor.toNat = s.store.dp.nFrame ∧ readBits s.fb s.store.dp.nFrame = .error e) := by
  unfold interleavePayBody
  by_cases h : s.cursor.toNat = s.store.dp.nFrame
  · cases hr : readBits s.fb s.store.dp.nFrame <;> simp [h]
  · simp [h, eq_comm]

theorem interleavePostBody_ok {s t : State} :
    interleavePostBody s = .ok t ↔
      l1Interleaved s.actCfg = true ∧ s.cursor.toNat = s.store.dp.recs.post.nFec ∧
        ∃ bs, readBits s.fb s.store.dp.recs.post.nFec = .ok bs ∧
          t = { s with fb := s.fb.writeBits 0 (interleavedBy (l1Cols s.actCfg) s.store.dp.l1Tables bs) } := by
  unfold interleavePostBody
  cases hl : l1Interleaved s.actCfg
  · simp
  · by_cases h : s.cursor.toNat = s.store.dp.recs.post.nFec
    · cases hr : readBits s.fb s.store.dp.recs.post.nFec <;> simp [hr, h, eq_comm]
    · simp [h]

theorem interleavePostBody_error {s : State} {e : CmdError} :
    interleavePostBody s = .error e ↔
      (l1Interleaved s.actCfg = false ∧ e = .mode (cfgL1Mod s.actCfg)) ∨
        (l1Interleaved s.actCfg = true ∧
          ((s.cursor.toNat ≠ s.store.dp.recs.post.nFec ∧ e = .len s.cursor.toNat) ∨
            (s.cursor.toNat = s.store.dp.recs.post.nFec ∧ readBits s.fb s.store.dp.recs.post.nFec = .error e))) := by
  unfold interleavePostBody
  cases hl : l1Interleaved s.actCfg
  · simp [eq_comm]
  · by_cases h : s.cursor.toNat = s.store.dp.recs.post.nFec
    · cases hr : readBits s.fb s.store.dp.recs.post.nFec <;> simp [hr, h]
    · simp [h, eq_comm]

theorem mapBody_ok {sel : MapSel} {s t : State} :
    mapBody sel s = .ok t ↔
      s.cursor.toNat % eta (mapMod s.actCfg sel) = 0 ∧ s.cursor.toNat / eta (mapMod s.actCfg sel) ≤ obSize ∧
        ∃ bs, readBits s.fb s.cursor.toNat = .ok bs ∧
          t = { s with
            ob := s.ob.write 0 (entriesOf (cfgOutFmt s.actCfg) (mapMod s.actCfg sel)
              (s.cursor.toNat / eta (mapMod s.actCfg sel)) bs)
            outCount := BitVec.ofNat 16 (s.cursor.toNat / eta (mapMod s.actCfg sel))
            outMod := outModOf (cfgOutFmt s.actCfg) (mapMod s.actCfg sel) } := by
  unfold mapBody
  by_cases h : s.cursor.toNat % eta (mapMod s.actCfg sel) = 0
  · by_cases h' : obSize < s.cursor.toNat / eta (mapMod s.actCfg sel)
    · simp [h, h']
    · cases hr : readBits s.fb s.cursor.toNat <;> simp [hr, h, h', Nat.not_lt.1 h', eq_comm]
  · simp [h]

theorem mapBody_error {sel : MapSel} {s : State} {e : CmdError} :
    mapBody sel s = .error e ↔
      ((s.cursor.toNat % eta (mapMod s.actCfg sel) ≠ 0 ∨ obSize < s.cursor.toNat / eta (mapMod s.actCfg sel)) ∧
          e = .len s.cursor.toNat) ∨
        (s.cursor.toNat % eta (mapMod s.actCfg sel) = 0 ∧
          s.cursor.toNat / eta (mapMod s.actCfg sel) ≤ obSize ∧ readBits s.fb s.cursor.toNat = .error e) := by
  unfold mapBody
  by_cases h : s.cursor.toNat % eta (mapMod s.actCfg sel) = 0
  · by_cases h' : obSize < s.cursor.toNat / eta (mapMod s.actCfg sel)
    · simp [h, h', eq_comm]
    · cases hr : readBits s.fb s.cursor.toNat <;> simp [hr, h, h', Nat.not_lt.1 h']
  · simp [h, eq_comm]

/-! ### Lengths of the bit sequences the bodies write -/

@[simp] theorem length_msbBits {w : Nat} (n : Nat) (v : BitVec w) : (msbBits n v).length = n := by
  simp [msbBits]

theorem length_packFrom (fields : WordRam) (i : Nat) (ws : List Nat) : (packFrom fields i ws).length = ws.sum := by
  induction ws generalizing i with
  | nil => rfl
  | cons w ws ih => simp [packFrom, ih]

@[simp] theorem length_packedBits (ws : List Nat) (fields : WordRam) : (packedBits ws fields).length = ws.sum :=
  length_packFrom fields 0 ws

@[simp] theorem length_bchParity (gen : BitVec 168) (ms : List Bool) : (bchParity gen ms).length = nBchParity := by
  simp [bchParity]

@[simp] theorem length_integrate (prev : Bool) (bs : List Bool) : (integrate prev bs).length = bs.length := by
  induction bs generalizing prev with
  | nil => rfl
  | cons b bs ih => simp [integrate, ih]

theorem length_foldl_accumulate (sched : List (Nat × Nat)) (ms p : List Bool) :
    (sched.foldl (accumulateEntry ms) p).length = p.length := by
  induction sched generalizing p with
  | nil => rfl
  | cons e sched ih => simp [ih, accumulateEntry]

@[simp] theorem length_ldpcParity (sched : List (Nat × Nat)) (ms : List Bool) (pBits : Nat) :
    (ldpcParity sched ms pBits).length = pBits := by
  simp [ldpcParity, accumulate, length_foldl_accumulate]

@[simp] theorem length_interleaved (c : Nat) (t : TableSet) (bs : List Bool) :
    (interleaved c t bs).length = bs.length := by
  simp [interleaved]

@[simp] theorem length_interleavedBy (c : Nat) (t : Option TableSet) (bs : List Bool) :
    (interleavedBy c t bs).length = bs.length := by
  cases t <;> simp [interleavedBy]

@[simp] theorem length_groupsOf (size n : Nat) (bs : List Bool) : (groupsOf size n bs).length = n := by
  induction n generalizing bs with
  | zero => rfl
  | succ n ih => simp [groupsOf, ih]

@[simp] theorem length_entriesOf (raw : Bool) (m : Modulation) (n : Nat) (bs : List Bool) :
    (entriesOf raw m n bs).length = n := by
  simp [entriesOf]

/-- Group g of a bit sequence is its bits g * size on. -/
theorem getElem_groupsOf {size n : Nat} {bs : List Bool} {g : Nat} (h : g < n) :
    (groupsOf size n bs)[g]? = some ((bs.drop (g * size)).take size) := by
  induction n generalizing bs g with
  | zero => omega
  | succ n ih =>
    cases g with
    | zero => simp [groupsOf]
    | succ g =>
      rw [groupsOf, List.getElem?_cons_succ, ih (by omega), List.drop_drop, Nat.succ_mul, Nat.add_comm]

/-! ### The frame of PAYLOAD (47_assembler.md R307, 70_reset_and_hazards.md R374) -/

/-- A PAYLOAD that succeeds leaves a fresh frame buffer for the next. -/
theorem payloadBody_leaves_fresh {s t : State} (h : payloadBody s = .ok t) : t.fb = Memory.invalid ∧ t.cursor = 0 := by
  unfold payloadBody at h
  split at h
  · cases h
  · cases hr : readBits s.fb s.store.dp.nFrame with
    | error e => simp [hr] at h
    | ok bs =>
      simp only [hr] at h
      obtain ⟨u, -, h⟩ := andThen_ok.1 h
      obtain ⟨v, -, h⟩ := andThen_ok.1 h
      cases h
      exact ⟨rfl, rfl⟩

/-- `freshFrame` holds its frame, so reading it gives the frame. -/
theorem readBits_freshFrame {bs : List Bool} (h : bs.length ≤ nMax) : readBits (freshFrame bs) bs.length = .ok bs :=
  (readBits_ok (Memory.wf_writeBits Memory.wf_invalid _ _)).2 ⟨rfl, holdsBits_writeBits _ (by omega)⟩

/-- R374: no leftover reaches the output of PAYLOAD. Whatever else the frame buffer holds, PAYLOAD answers what it answers
from a fresh frame buffer into which the frame alone was written. -/
theorem payloadBody_from_fresh {s : State} {bs : List Bool} (hw : s.fb.wf) (hn : s.store.dp.nFrame ≤ nMax)
    (hl : bs.length = s.store.dp.nFrame) (hb : HoldsBits s.fb 0 bs) (ho : s.outReq = s.store.regs.nSymPay) :
    payloadBody s = payloadBody { s with fb := freshFrame bs } := by
  have h1 : readBits s.fb s.store.dp.nFrame = .ok bs := (readBits_ok hw).2 ⟨hl, hb⟩
  have h2 : readBits (freshFrame bs) s.store.dp.nFrame = .ok bs := hl ▸ readBits_freshFrame (hl ▸ hn)
  simp [payloadBody, ho, h1, h2]

/-- The stages of PAYLOAD answer the same from any frame buffer that holds the frame. -/
theorem payloadStages_frame {s : State} {m : Memory} {bs : List Bool} (hw : s.fb.wf) (hm : m.wf)
    (hn : s.store.dp.nFrame ≤ nMax) (hl : bs.length = s.store.dp.nFrame) (hb : HoldsBits s.fb 0 bs)
    (hbm : HoldsBits m 0 bs) (hc : s.cursor.toNat = s.store.dp.nFrame) :
    andThen interleavePayBody (andThen (mapBody .pay) consumeFrame) s =
      andThen interleavePayBody (andThen (mapBody .pay) consumeFrame) { s with fb := m } := by
  have hi : ∀ {u : Memory}, u.wf → HoldsBits u 0 bs → readBits u s.store.dp.nFrame = .ok bs :=
    fun hu h => (readBits_ok hu).2 ⟨hl, h⟩
  have ho : ∀ {u : Memory}, u.wf →
      readBits (u.writeBits 0 (interleavedBy (payCols s.actCfg) s.store.dp.payTables bs)) s.store.dp.nFrame =
        .ok (interleavedBy (payCols s.actCfg) s.store.dp.payTables bs) :=
    fun hu => (readBits_ok (Memory.wf_writeBits hu _ _)).2 ⟨by simp [hl], holdsBits_writeBits _ (by simp; omega)⟩
  simp only [andThen, interleavePayBody, hc, hi hw hb, hi hm hbm, ne_eq, not_true_eq_false, if_false, mapBody, ho hw, ho hm]
  by_cases h1 : s.store.dp.nFrame % eta (mapMod s.actCfg .pay) = 0 <;>
    by_cases h2 : obSize < s.store.dp.nFrame / eta (mapMod s.actCfg .pay) <;> simp [h1, h2, consumeFrame]

/-- 47_assembler.md R307's pseudocode runs the stages on the frame buffer as it stands: the same answer. -/
theorem payloadBody_in_place {s : State} (hw : s.fb.wf) (hn : s.store.dp.nFrame ≤ nMax) :
    payloadBody s =
      if s.outReq ≠ s.store.regs.nSymPay then .error (.outSize s.outReq)
      else
        match readBits s.fb s.store.dp.nFrame with
        | .error e => .error e
        | .ok _ =>
          andThen interleavePayBody (andThen (mapBody .pay) consumeFrame)
            { s with cursor := BitVec.ofNat 17 s.store.dp.nFrame } := by
  unfold payloadBody
  cases hr : readBits s.fb s.store.dp.nFrame with
  | error e => rfl
  | ok bs =>
    obtain ⟨hl, hb⟩ := (readBits_ok hw).1 hr
    have hc : (BitVec.ofNat 17 s.store.dp.nFrame).toNat = s.store.dp.nFrame := by
      rw [BitVec.toNat_ofNat, Nat.mod_eq_of_lt (Nat.lt_of_le_of_lt hn (by decide))]
    have := payloadStages_frame (s := { s with cursor := BitVec.ofNat 17 s.store.dp.nFrame }) (m := freshFrame bs) hw
      (Memory.wf_writeBits Memory.wf_invalid _ _) hn hl hb
      (holdsBits_writeBits _ (by rw [Nat.zero_add, hl]; exact hn)) hc
    simp only [← this]

/-- A PAYLOAD on a fresh frame buffer reads nothing that an earlier frame left: it ends in ERR_UNDEF(0). -/
theorem execPayload_fresh {s : State} (hc : s.configured = true) (ho : s.outReq = s.store.regs.nSymPay)
    (hn : 0 < s.store.dp.nFrame) (hf : s.fb = Memory.invalid) : execPayload s = .next (raise (.undef 0) s) := by
  have hr : readBits s.fb s.store.dp.nFrame = .error (.undef 0) := by
    rw [hf]
    exact readBits_eq_error Memory.wf_invalid (bs := []) hn (holdsBits_nil _ _) (.inl ⟨rfl, rfl⟩)
  exact (runConfigured_of_configured hc).trans (runAlways_error (by simp [payloadBody, ho, hr]))

/-! ### The host's accesses and the inputs -/

/-- A host access is refused, a hazard, or performed. -/
theorem hostAccess_cases (a : Access) (s : State) :
    (a.admitted = false ∧ hostAccess a s = .refused .accessNotAdmitted) ∨
      (a.admitted = true ∧ s.busy = true ∧ allowedWhileBusy (targetOf a.addr) = false ∧
        hostAccess a s = .fault .hostHazard) ∨
      (a.admitted = true ∧ (s.busy = true → allowedWhileBusy (targetOf a.addr) = true) ∧
        ((a.op = .read ∧ hostAccess a s = .next (hostRead s (targetOf a.addr))) ∨
          ∃ v, a.op = .write v ∧ hostAccess a s = .next (writeTarget s v (targetOf a.addr)))) := by
  unfold hostAccess
  cases ha : a.admitted
  · exact .inl ⟨rfl, by simp⟩
  · cases hb : s.busy <;> cases hw : allowedWhileBusy (targetOf a.addr) <;> cases ho : a.op <;> simp

/-- The engine's turn: nothing while BUSY = 0, else the latched command or ERR_ILLEGAL. -/
theorem engineTurn_cases (s : State) :
    (s.busy = false ∧ engineTurn s = .next s) ∨
      (s.busy = true ∧ decode s.latch = none ∧ engineTurn s = .next (raise (.illegal s.latch) s)) ∨
      (s.busy = true ∧ ∃ i, decode s.latch = some i ∧ engineTurn s = exec i s) := by
  unfold engineTurn engineStep
  cases hb : s.busy <;> cases hd : decode s.latch <;> simp

end Sys2Proof.Machine
end

