-- ==== Sys2Proof/Laws/PerInstr.lean ====
section
/-! SUPPORT. For every command: its word is legal, and its ZERO field is 0 (30_encoding.md R110, R113). -/

namespace Sys2Proof.Laws.LegalWord

open Sys2Proof

/-- The command's word has legal fields. -/
def Statement (i : Instr) : Prop := i.wf = true → (Fields.ofWord (encode i)).legal = true

theorem nop : Statement .nop := by unfold Statement; decide
theorem configure : Statement .configure := by unfold Statement; decide
theorem softReset : Statement .softReset := by unfold Statement; decide
theorem clear : Statement .clear := by unfold Statement; decide
theorem packPre : Statement .packPre := by unfold Statement; decide
theorem packPost : Statement .packPost := by unfold Statement; decide
theorem crcAppend : Statement .crcAppend := by unfold Statement; decide
theorem padPre : Statement .padPre := by unfold Statement; decide
theorem padPost : Statement .padPost := by unfold Statement; decide
theorem bchEncodePre : Statement .bchEncodePre := by unfold Statement; decide
theorem bchEncodePost : Statement .bchEncodePost := by unfold Statement; decide
theorem ldpcEncodePre : Statement .ldpcEncodePre := by unfold Statement; decide
theorem ldpcEncodePost : Statement .ldpcEncodePost := by unfold Statement; decide
theorem puncturePre : Statement .puncturePre := by unfold Statement; decide
theorem puncturePost : Statement .puncturePost := by unfold Statement; decide
theorem interleavePay : Statement .interleavePay := by unfold Statement; decide
theorem interleavePost : Statement .interleavePost := by unfold Statement; decide
theorem mapPay : Statement .mapPay := by unfold Statement; decide
theorem mapPre : Statement .mapPre := by unfold Statement; decide
theorem mapPost : Statement .mapPost := by unfold Statement; decide
theorem assemblePre : Statement .assemblePre := by unfold Statement; decide
theorem assemblePost : Statement .assemblePost := by unfold Statement; decide
theorem payload : Statement .payload := by unfold Statement; decide

end Sys2Proof.Laws.LegalWord
end

