-- ==== Sys2Proof/Tests/Slice0.lean ====
section
/-! SUPPORT. The model's own tests: every command's word decoded, ill-formed terms refused, a few vectors of
95_test_vectors.md, and for each obligation with hypotheses a state that meets them. -/

namespace Sys2Proof.Tests

open Sys2Proof Sys2Proof.Machine Sys2Proof.Claims

/-! ### Decoding: words written out from 30_encoding.md R110 and R112 (OPCODE, SEL, ZERO) -/

theorem test_decode_nop : decode (0x00#8 ++ 0#4 ++ 0#20) = some .nop := by decide
theorem test_decode_configure : decode (0x01#8 ++ 0#4 ++ 0#20) = some .configure := by decide
theorem test_decode_softReset : decode (0x02#8 ++ 0#4 ++ 0#20) = some .softReset := by decide
theorem test_decode_clear : decode (0x03#8 ++ 0#4 ++ 0#20) = some .clear := by decide
theorem test_decode_packPre : decode (0x10#8 ++ 0#4 ++ 0#20) = some .packPre := by decide
theorem test_decode_packPost : decode (0x10#8 ++ 1#4 ++ 0#20) = some .packPost := by decide
theorem test_decode_crcAppend : decode (0x11#8 ++ 0#4 ++ 0#20) = some .crcAppend := by decide
theorem test_decode_padPre : decode (0x12#8 ++ 0#4 ++ 0#20) = some .padPre := by decide
theorem test_decode_padPost : decode (0x12#8 ++ 1#4 ++ 0#20) = some .padPost := by decide
theorem test_decode_bchEncodePre : decode (0x13#8 ++ 0#4 ++ 0#20) = some .bchEncodePre := by decide
theorem test_decode_bchEncodePost : decode (0x13#8 ++ 1#4 ++ 0#20) = some .bchEncodePost := by decide
theorem test_decode_ldpcEncodePre : decode (0x14#8 ++ 0#4 ++ 0#20) = some .ldpcEncodePre := by decide
theorem test_decode_ldpcEncodePost : decode (0x14#8 ++ 1#4 ++ 0#20) = some .ldpcEncodePost := by decide
theorem test_decode_puncturePre : decode (0x15#8 ++ 0#4 ++ 0#20) = some .puncturePre := by decide
theorem test_decode_puncturePost : decode (0x15#8 ++ 1#4 ++ 0#20) = some .puncturePost := by decide
theorem test_decode_interleavePay : decode (0x16#8 ++ 0#4 ++ 0#20) = some .interleavePay := by decide
theorem test_decode_interleavePost : decode (0x16#8 ++ 1#4 ++ 0#20) = some .interleavePost := by decide
theorem test_decode_mapPay : decode (0x17#8 ++ 0#4 ++ 0#20) = some .mapPay := by decide
theorem test_decode_mapPre : decode (0x17#8 ++ 1#4 ++ 0#20) = some .mapPre := by decide
theorem test_decode_mapPost : decode (0x17#8 ++ 2#4 ++ 0#20) = some .mapPost := by decide
theorem test_decode_assemblePre : decode (0x20#8 ++ 0#4 ++ 0#20) = some .assemblePre := by decide
theorem test_decode_assemblePost : decode (0x20#8 ++ 1#4 ++ 0#20) = some .assemblePost := by decide
theorem test_decode_payload : decode (0x21#8 ++ 0#4 ++ 0#20) = some .payload := by decide

/-- 95_test_vectors.md V-ENC-2, V-ENC-3, V-ENC-6. -/
theorem test_decode_illegal :
    decode 0x10000001#32 = none ∧ decode 0xFF000000#32 = none ∧ decode 0x16200000#32 = none := by decide

theorem test_decodeTableWord : decodeTableWord 32 0x17200000 = some .mapPost := by decide

/-! ### WellFormed refuses an ill-formed term, one for each check -/

theorem test_wf_opcode : (Fields.mk 0x04#8 0#4 0#20).opcodeOk = false := by decide
theorem test_wf_sel : (Fields.mk 0x17#8 3#4 0#20).selOk = false := by decide
theorem test_wf_zero : (Fields.mk 0x10#8 0#4 1#20).zeroOk = false := by decide
theorem test_wf_legal : (Fields.mk 0x10#8 0#4 1#20).legal = false := by decide
theorem test_wf_aligned : (Access.mk .read 0x00006 .w32).aligned = false := by decide
theorem test_wf_wide : (Access.mk .read 0x00004 .w16).wide32 = false := by decide
theorem test_wf_inSpace : (Access.mk .read 0x100000 .w32).inSpace = false := by decide
theorem test_wf_admitted : (Access.mk .read 0x00004 .w16).admitted = false := by decide

/-! ### A small parameter instance (95_test_vectors.md, program P3) -/

/-- The candidate 16-QAM tables of 93_implementation_defined.md 3.8. -/
def tables16 : TableSet := ⟨[0, 0, 2, 4, 4, 5, 7, 7], [7, 1, 4, 2, 5, 3, 6, 0]⟩

/-- Every key the same value. -/
def always {κ α : Type} (v : α) : Table κ α := ⟨[], v⟩

/-- Both records the same value. -/
def both {α : Type} (v : α) : PerRec α := ⟨v, v⟩

/-- P3's instance, with the table set that P2 adds. -/
def toy : Params :=
  { bchFactors :=
      [0x402B, 0x4941, 0x4647, 0x5591, 0x6B55, 0x6389, 0x6CE5, 0x4F21, 0x460F, 0x5A49, 0x5811, 0x65EF]
    kBch := both 192
    nLdpcSig := 1080
    ldpcBase := both [⟨3, [5, 200, 719]⟩]
    puncOrder := both [1, 0]
    puncTemp := both (always (some 400))
    fftFactor := always (some .one)
    schema := both (always [8, 3, 32, 25])
    expLen := both (always 68)
    validRate := always true
    tableSet := always (some tables16)
    l1TableSet := always none }

/-- An instance whose L1-post record can be 16-QAM: N_FEC = 584 = 73 rows of 8 columns. -/
def toyPost : Params :=
  { toy with puncTemp := both (always (some 404)), l1TableSet := always (some tables16) }

/-- An instance whose widths do not sum to EXPLEN (95_test_vectors.md V-PACK-3). -/
def toyBad : Params := { toy with schema := both (always [8, 3]) }

theorem toy_accepts_0 : failedCheck toy 0 = none := by decide +kernel
theorem toy_accepts_16 : failedCheck toy 0x0010 = none := by decide +kernel
theorem toyPost_accepts : failedCheck toyPost 0x0100 = none := by decide +kernel
theorem toyBad_accepts : failedCheck toyBad 0 = none := by decide +kernel

/-- An idle core after a successful CONFIGURE of `cfg`, with the given frame buffer and CURSOR. -/
def configuredAt (p : Params) (cfg : BitVec 15) (fb : Memory) (cursor : Nat) : State :=
  { State.reset with
    params := p, cfg0 := cfg, actCfg := cfg, configured := true, store := storeOf p cfg
    fb := fb, cursor := BitVec.ofNat 17 cursor }

theorem inv_configuredAt {p : Params} {cfg : BitVec 15} {fb : Memory} (cursor : Nat) (h : failedCheck p cfg = none)
    (hfb : fb.wf) : (configuredAt p cfg fb cursor).Inv := by
  refine ⟨⟨hfb, ?_, ?_, ?_⟩, ⟨?_, ?_, ?_, ?_⟩, fun _ => ⟨h, rfl⟩, ?_, ?_⟩ <;>
    simp [configuredAt, State.reset, WordRam.wf, obSize]

/-- A frame buffer whose first n elements are valid zeros. -/
def zeros (n : Nat) : Memory := Memory.invalid.writeBits 0 (List.replicate n false)

theorem wf_zeros (n : Nat) : (zeros n).wf := Memory.wf_writeBits Memory.wf_invalid _ _

theorem holds_zeros {n : Nat} (h : n ≤ nMax) : HoldsBits (zeros n) 0 (List.replicate n false) :=
  holdsBits_writeBits _ (by simpa using h)

/-- The first n elements can be read, for n <= NMAX. -/
theorem readBits_zeros {n : Nat} (h : n ≤ nMax) : readBits (zeros n) n = .ok (List.replicate n false) :=
  (readBits_ok (wf_zeros n)).2 ⟨by simp, holds_zeros h⟩

/-- A frame buffer whose elements 0 and 1 are valid bits, element 2 invalid, element 3 above 1. -/
def gapped : Memory := [(0, 1), (1, 0), (3, 2)]

theorem wf_gapped : gapped.wf := by decide

/-- The hypotheses of the first-bad-bit clauses: an invalid element, and one above 1. -/
theorem gapped_fails :
    (HoldsBits gapped 0 [true, false] ∧ gapped.elem 2 = none) ∧
      HoldsBits [(0, 2)] 0 [] ∧ Memory.elem [(0, 2)] 0 = some 2 ∧ 1 < (2 : Byte).toNat :=
  ⟨⟨fun j h => by
      have : j = 0 ∨ j = 1 := by simp at h; omega
      rcases this with rfl | rfl <;> rfl, rfl⟩,
    holdsBits_nil _ _, rfl, by decide⟩

/-- The busy core with a latched word. -/
def busyWith (w : Word) : State := { State.reset with busy := true, latch := w }

/-! ### Vectors of 95_test_vectors.md, one operation each -/

/-- V-CRC-1, V-CRC-2, V-CRC-6, V-CRC-8 (41_pack_crc.md R170). -/
theorem test_crc_vectors :
    crc32 [] = 0xFFFFFFFF#32 ∧ crc32 [true] = 0xFFFFFFFE#32 ∧ crc32 (msbBits 8 0x41#8) = 0x7E4FD274#32 ∧
      crc32 (msbBits 72 0x313233343536373839#72) = 0x0376E6E7#32 := by decide +kernel

/-- V-PACK-1 (41_pack_crc.md R161). -/
theorem test_pack_vector :
    packedBits [8, 3, 32] [(0, 0x1A5#32), (1, 0x5#32), (2, 0x80000001#32)] =
      msbBits 8 0xA5#8 ++ msbBits 3 5#3 ++ msbBits 32 0x80000001#32 := by decide +kernel

/-- V-BCH-2 and BCH_GEN0 .. BCH_GEN5 (42_bch.md R196). -/
theorem test_bch_generator :
    genOf toy = 0x4062dbea9869b262cd23a39069528fe7d7d11905a5#168 ∧ bchGenWord (genOf toy) 0 = 0x4062DBEA#32 ∧
      bchGenWord (genOf toy) 5 = 0xA5000000#32 := by decide +kernel

/-- V-BCH-7 (42_bch.md R196). -/
theorem test_bch_parity :
    bchParity (genOf toy) [true, false, true, true] =
      msbBits 168 0x437404be5b242174a43ebf1323c6f0d96959d1288d#168 := by decide +kernel

/-- 43_ldpc.md R216, the toy code with q = 1, scaled to its first two shifts: entries (n, n) and (n + 1, n). -/
theorem test_ldpc_shift : shiftEntries 1 360 ⟨2, [0, 1]⟩ 0 359 = [(359, 359), (0, 359)] := by decide

/-- V-LDPC-3 (43_ldpc.md R216): only m_0 = 1 gives p[0] = 1 and the rest 0. -/
theorem test_ldpc_parity : ldpcParity [(0, 0), (1, 0)] [true] 5 = [true, false, false, false, false] := by decide

/-- V-PUN-1, V-PUN-5 (44_puncture.md R240): N_FEC, N_punc and NSYM of the toy record. -/
theorem test_puncture_lengths :
    nFecOf toy 0 .pre = 588 ∧ nPuncOf toy 0 .pre = 400 ∧ nSymOf toy 0 .pre = 588 := by decide +kernel

/-- 44_puncture.md R240: odd bits go, and the even ones below 80. -/
theorem test_puncture_set :
    isPunctured [1, 0] 2 400 719 = true ∧ isPunctured [1, 0] 2 400 78 = true ∧
      isPunctured [1, 0] 2 400 80 = false := by decide

/-- V-IL-1 (45_interleave.md R268). -/
theorem test_interleave_vector :
    (List.range 8).map (ilSource 4 8 ⟨[0, 1, 2, 3, 0, 1, 2, 3], [7, 1, 4, 2, 5, 3, 6, 0]⟩) =
      [29, 7, 13, 23, 10, 16, 26, 0] := by decide +kernel

/-- V-IL-3 (45_interleave.md R268), the normal frame. -/
theorem test_interleave_frame :
    (List.range 8).map (ilSource 8100 8 tables16) = [64793, 8100, 32396, 48595, 24298, 40496, 56693, 0] := by
  decide +kernel

/-- V-MAP-3, V-MAP-5 (46_mapper.md R292). -/
theorem test_map_entries :
    entryOf false .qam16 [true, false, false, true] = 0xFFFD0001#32 ∧
      entryOf true .qam16 [true, false, false, true] = 0x9#32 ∧
      entryOf false .qam256 (List.replicate 8 true) = 0xFFFBFFFB#32 := by decide +kernel

/-- V-CTL-2: CFG0 = 0x40 fails check 1; V-CTL-3: CFG0 = 0x600 fails check 2. -/
theorem test_configure_checks : failedCheck toy 0x0040 = some 1 ∧ failedCheck toy 0x0600 = some 2 := by
  decide +kernel

/-- V-MEM-1, V-MEM-3, V-MEM-4 (20_memory.md R84, R85). -/
theorem test_windows :
    (Memory.invalid.write 0 [0, 0, 1, 1]).elem 3 = some 1 ∧
      elemsWord (Memory.invalid.writeBits 0 (msbBits 32 0x80000001#32)) 7 = 0x00000001#32 ∧
      packedWord (Memory.invalid.writeBits 0 (msbBits 32 0x80000001#32)) 0 = 0x80000001#32 := by decide +kernel

/-- V-MAP-8 (46_mapper.md R290): MAP.PAY with CURSOR = 0 writes OUT_MOD and no entry. -/
theorem test_map_nothing :
    ∃ t, mapBody .pay (configuredAt toy 0x0010 [] 0) = .ok t ∧ t.outCount = 0 ∧ t.outMod = 2 ∧ t.ob = [] :=
  ⟨_, rfl, by decide, by decide, rfl⟩

/-- V-IL-5 (45_interleave.md R266): L1_MOD = 1 raises ERR_MODE with 1. -/
theorem test_interleave_mode : interleavePostBody (configuredAt toy 0x0080 [] 0) = .error (.mode 1) := by rfl

/-- V-CTL-7 (40_control.md R149): an empty frame buffer raises ERR_UNDEF(0). -/
theorem test_crc_undefined : crcBody { State.reset with cursor := 8 } = .error (.undef 0) := by rfl

/-- V-CRC-10 (41_pack_crc.md R166). -/
theorem test_crc_length : crcBody { State.reset with cursor := 64770 } = .error (.len 64770) := by rfl

/-- V-PAD-2 (41_pack_crc.md R173). -/
theorem test_pad_length : padBody .pre (configuredAt toy 0 [] 99) = .error (.len 99) := by rfl

/-- V-ASM-1 (47_assembler.md R303): OUT_REQ = 0. -/
theorem test_assemble_outsize : assembleBody .pre (configuredAt toy 0 [] 0) = .error (.outSize 0) := by rfl

/-- P4: an illegal word raises ERR_ILLEGAL. -/
theorem test_illegal_step :
    engineTurn (busyWith 0x17300000#32) =
      .next { busyWith 0x17300000#32 with err := true, errCode := 1, errInfo := 0x17300000#32, busy := false } := by
  rfl

/-! ### Witnesses: for each obligation with hypotheses, a state and operands that meet them -/

theorem witness_IllegalWordsRaiseErrIllegal :
    ((busyWith 0x04000000#32).busy = true ∧ (Fields.ofWord 0x04000000#32).opcodeOk = false) ∧
      (Fields.ofWord 0x17300000#32).selOk = false ∧ (Fields.ofWord 0x10000001#32).zero ≠ 0#20 ∧
      (Fields.ofWord 0x17200000#32).opcodeOk = true ∧ (Fields.ofWord 0x17200000#32).selOk = true ∧
      (Fields.ofWord 0x17200000#32).zero = 0#20 := by decide

theorem witness_EncodingExamplesDecode :
    ((busyWith 0x17300000#32).busy = true ∧ (busyWith 0x17300000#32).latch = 0x17300000#32) ∧
      State.reset.busy = false ∧ State.reset.err = false := ⟨⟨rfl, rfl⟩, rfl, rfl⟩

/-- An idle state with ERR = 1. -/
def failed : State := { State.reset with err := true, errCode := 4, errInfo := 7 }

theorem witness_CommandWriteIssues :
    (busyWith 0).busy = true ∧ (failed.busy = false ∧ failed.err = true) ∧
      State.reset.busy = false ∧ State.reset.err = false := ⟨rfl, ⟨rfl, rfl⟩, rfl, rfl⟩

theorem witness_StepRunsTheLatchedCommand :
    ((busyWith 0).busy = true ∧ decode (busyWith 0).latch = some .nop ∧ (busyWith 0).inputs = []) ∧
      (let s := { busyWith 0 with inputs := [.engine] };
        s.busy = true ∧ decode s.latch = some .nop ∧ s.inputs = .engine :: []) ∧
      (State.reset.busy = false ∧ State.reset.inputs = []) ∧
      (let s := { State.reset with inputs := [.engine] };
        s.busy = false ∧ s.inputs = .engine :: []) ∧
      (let s := { State.reset with inputs := [.bus ⟨.read, 4, .w32⟩] };
        s.inputs = .bus ⟨.read, 4, .w32⟩ :: []) ∧
      ((busyWith 0x17300000#32).busy = true ∧ decode (busyWith 0x17300000#32).latch = none ∧
        (busyWith 0x17300000#32).inputs = []) ∧
      let s := { busyWith 0x17300000#32 with inputs := [.engine] }
      s.busy = true ∧ decode s.latch = none ∧ s.inputs = .engine :: [] :=
  ⟨⟨rfl, by decide, rfl⟩, ⟨rfl, by decide, rfl⟩, ⟨rfl, rfl⟩, ⟨rfl, rfl⟩, rfl, ⟨rfl, by decide, rfl⟩, rfl, by decide, rfl⟩

theorem witness_PlacedWordRunsNext :
    (0x21000000 < 2 ^ 32 ∧ decodeTableWord 32 0x21000000 = some .payload) ∧
      0 < 2 ^ 32 ∧ decodeTableWord 32 0 = some .nop := by decide

theorem witness_HostHazardExactlyWhileBusy :
    ((busyWith 0).busy = true ∧ 0x00008 % 4 = 0 ∧ 0x00008 < 2 ^ 20 ∧ 0x00008 ≠ 0x00004 ∧ 0x00008 ≠ 0x00000) ∧
      (0xFFFFC % 4 = 0 ∧ 0xFFFFC < 2 ^ 20) ∧ (0x00004 % 4 = 0 ∧ 0x00004 < 2 ^ 20) ∧ State.reset.busy = false :=
  ⟨⟨rfl, by decide⟩, by decide, by decide, rfl⟩

theorem witness_BusyCoreBecomesIdle :
    let s := { busyWith 0 with inputs := [.bus ⟨.read, 4, .w32⟩, .engine, .bus ⟨.write 3, 0, .w32⟩] }
    s.busy = true ∧ ∀ a, Input.bus a ∈ s.inputs → a.width = .w32 ∧ (a.addr = 0x00000 ∨ a.addr = 0x00004) := by
  refine ⟨rfl, fun a h => ?_⟩
  simp only [List.mem_cons, Input.bus.injEq, reduceCtorEq, false_or, List.not_mem_nil, or_false] at h
  rcases h with rfl | rfl <;> decide

theorem witness_EveryCommandEndsDoneOrInError : (busyWith 0).done = false ∧ (busyWith 0).err = false := ⟨rfl, rfl⟩

theorem witness_ErrorsArePrecise :
    ∃ t, (busyWith 0x10000000#32).err = false ∧ exec .packPre (busyWith 0x10000000#32) = .next t ∧ t.err = true :=
  ⟨_, rfl, rfl, rfl⟩

theorem witness_ConfigurationIsRequiredWhereTheTableSays :
    (needsConfig .payload = true ∧ State.reset.configured = false) ∧
      (needsConfig .crcAppend = false ∧ State.reset.err = false ∧
        ∃ t, exec .crcAppend { State.reset with cursor := 8 } = .next t ∧ t.err = true) ∧
      let s := configuredAt toy 0 [] 99
      s.configured = true ∧ s.err = false ∧ ∃ t, exec .padPre s = .next t ∧ t.err = true :=
  ⟨⟨rfl, rfl⟩, ⟨rfl, rfl, _, rfl, rfl⟩, rfl, rfl, _, rfl, rfl⟩

theorem witness_AcknowledgingAnErrorReturns :
    failed.busy = false ∧ failed.err = true ∧ (0x4 : Word).getLsbD 2 = true := ⟨rfl, rfl, by decide⟩

theorem witness_CompletionDrivesIrq :
    ∃ t, (busyWith 0).done = false ∧ (busyWith 0).err = false ∧ exec .nop (busyWith 0) = .next t ∧
      exec .packPre (busyWith 0) = .next { busyWith 0 with err := true, errCode := 2, errInfo := 0, busy := false } :=
  ⟨_, rfl, rfl, rfl, rfl⟩

theorem witness_StatusWordLayout : State.reset.busy = false := rfl

theorem witness_HostRegistersKeepTheirBits : failed.busy = false := rfl

theorem witness_FieldWindowsStoreWholeWords : State.reset.busy = false ∧ 1023 < 1024 := ⟨rfl, by decide⟩

theorem witness_ElementWindowReadsAndWrites :
    State.reset.busy = false ∧ 16199 < 16200 ∧ (16200 ≤ 16200 ∧ 16200 < 16384) ∧ 16200 ≤ 16383 ∧ 16383 < 16384 :=
  ⟨rfl, by decide⟩

theorem witness_PackedWindowReadsAndWrites :
    State.reset.busy = false ∧ 2024 < 2025 ∧ (2025 ≤ 2025 ∧ 2025 < 2048) ∧ 2025 ≤ 2047 ∧ 2047 < 2048 :=
  ⟨rfl, by decide⟩

theorem witness_OutputWindowIsReadOnly :
    State.reset.busy = false ∧ 32399 < 32768 ∧ 32400 < 32768 ∧ 32767 < 32768 := ⟨rfl, by decide⟩

/-- The reserved addresses next to each boundary. -/
theorem witness_ReservedAddressesReadZero :
    State.reset.busy = false ∧
      ∀ a ∈ [0x00058, 0x0005C, 0x00078, 0x00FFC, 0x03000, 0x0FFFC, 0x1FD20, 0x1FFFC, 0x21FA4, 0x3FFFC, 0x5FA40, 0xFFFFC],
        a % 4 = 0 ∧ a < 2 ^ 20 ∧
          ((0x00054 < a ∧ a < 0x00060) ∨ (0x00074 < a ∧ a < 0x01000) ∨ (0x02FFC < a ∧ a < 0x10000) ∨
            (0x10000 + 4 * 16200 ≤ a ∧ a < 0x20000) ∨ (0x20000 + 4 * 2025 ≤ a ∧ a < 0x40000) ∨
            0x40000 + 4 * 32400 ≤ a) := ⟨rfl, by decide⟩

theorem witness_ReadsHaveNoSideEffect :
    (∃ t, HostReads State.reset 0x00014 t) ∧ State.reset.busy = false ∧
      ∃ t, HostReads (busyWith 0) 0x00000 t ∧ (0x00000 ≠ 0x00004) := ⟨⟨_, rfl⟩, rfl, _, rfl, by decide⟩

theorem witness_GeneratorReadback : State.reset.busy = false ∧ 5 < 6 ∧ 31 < 32 := ⟨rfl, by decide⟩

theorem witness_ReadOnlyRegistersReadBack : State.reset.busy = false := rfl

theorem witness_CommandsLeaveHostRegisters : ∃ t, exec .clear (busyWith 0) = .next t ∧ Instr.clear ≠ .softReset :=
  ⟨_, rfl, by decide⟩

theorem witness_OnlyConfigureAndResetChangeTheConfiguration : ∃ t, step (busyWith 0) = .next t := ⟨_, rfl⟩

theorem witness_OnlyConfigureReadsCfg0 : ∃ t, Instr.clear ≠ .configure ∧ exec .clear (busyWith 0) = .next t :=
  ⟨_, by decide, rfl⟩

/-- NOP, and a CONFIGURE that succeeds. -/
theorem witness_NoCommandReadsDpUnconfigured :
    (∃ t, (busyWith 0).configured = false ∧ exec .nop (busyWith 0) = .next t) ∧
      ∃ t, ({ busyWith 0x01000000#32 with params := toy }).configured = false ∧
        exec .configure { busyWith 0x01000000#32 with params := toy } = .next t ∧ t.configured = true := by
  refine ⟨⟨_, rfl, rfl⟩, ?_⟩
  rcases execConfigure_cases { busyWith 0x01000000#32 with params := toy } with ⟨-, h⟩ | ⟨n, hn, -⟩
  · exact ⟨_, rfl, h, rfl⟩
  · have hn : failedCheck toy 0 = some n := hn
    rw [toy_accepts_0] at hn
    cases hn

theorem witness_NopClearAndSoftReset :
    ∀ w ∈ [0x00000000#32, 0x03000000#32, 0x02000000#32], (busyWith w).busy = true ∧ (busyWith w).latch = w :=
  fun _ _ => ⟨rfl, rfl⟩

theorem witness_ResetInputActsInEveryState : { failed with inputs := [.reset] }.inputs = .reset :: [] := rfl

/-- P3's instance meets the first nine conditions of 40_control.md R145, with a BPSK or a 16-QAM L1-post. -/
theorem toy_checks {cfg : BitVec 15} (h : cfg = 0 ∨ cfg = 0x0100) {n : Nat} (h1 : 1 ≤ n) (h9 : n ≤ 9) :
    CheckHolds n toy cfg := by
  have hn : n = 1 ∨ n = 2 ∨ n = 3 ∨ n = 4 ∨ n = 5 ∨ n = 6 ∨ n = 7 ∨ n = 8 ∨ n = 9 := by omega
  rcases hn with rfl | rfl | rfl | rfl | rfl | rfl | rfl | rfl | rfl
  · rcases h with rfl | rfl
    · exact (by decide : (0 : BitVec 15).toNat / 16 % 8 ≤ 3)
    · exact (by decide : (0x0100 : BitVec 15).toNat / 16 % 8 ≤ 3)
  · rcases h with rfl | rfl
    · exact (by decide : (0 : BitVec 15).toNat / 128 % 16 ≤ 3)
    · exact (by decide : (0x0100 : BitVec 15).toNat / 128 % 16 ≤ 3)
  · rfl
  · exact fun hq => absurd (by rcases h with rfl | rfl <;> rfl) hq
  · exact ⟨rfl, by decide, by decide +kernel⟩
  · intro r
    cases r <;> exact ⟨by decide, by decide, by decide, by decide, by decide, by decide⟩
  · intro r
    cases r <;> exact ⟨by decide, by decide⟩
  · intro r
    cases r <;> rcases h with rfl | rfl <;> exact ⟨by decide, by decide, by decide⟩
  · intro r
    refine ⟨1, 400, 588, ?_, ?_, ?_, ?_, ?_⟩
    · cases r
      · rfl
      · exact .inl ⟨rfl, rfl⟩
    · cases r <;> rfl
    · cases r <;> decide
    · cases r <;> rcases h with rfl | rfl <;> exact ⟨by decide, by decide, by decide⟩
    · cases r <;> rcases h with rfl | rfl <;> exact ⟨by decide, by decide, by decide, by decide⟩

/-- Check 1 fails for PLP_MOD = 4; check 10 is the first to fail for a 16-QAM L1-post without a table set; 0 passes
all. (Check 11 holds for every configuration that passes check 1.) -/
theorem witness_ConfigureReportsTheFirstFailingCheck :
    ((∀ k, 1 ≤ k → k < 1 → CheckHolds k toy 0x0040) ∧ ¬ CheckHolds 1 toy 0x0040) ∧
      ((∀ k, 1 ≤ k → k < 10 → CheckHolds k toy 0x0100) ∧ ¬ CheckHolds 10 toy 0x0100) ∧
      ∀ k, 1 ≤ k → k ≤ 11 → CheckHolds k toy 0 := by
  refine ⟨⟨fun k h1 h2 => by omega, (by decide : ¬ (0x0040 : BitVec 15).toNat / 16 % 8 ≤ 3)⟩, ⟨fun k h1 h2 => toy_checks (.inr rfl) h1 (by omega), ?_⟩, ?_⟩
  · intro h
    obtain ⟨t, ht, -⟩ := h (.inl rfl)
    cases ht
  · intro k h1 h2
    have hk : k ≤ 9 ∨ k = 10 ∨ k = 11 := by omega
    rcases hk with h | rfl | rfl
    · exact toy_checks (.inl rfl) h1 h
    · exact fun h => absurd h (by decide)
    · exact ⟨by decide, by decide⟩

theorem witness_ConfigureDerivesTheLengths :
    let s := { State.reset with params := toy }
    failedCheck s.params s.cfg0 = none := toy_accepts_0

theorem witness_GeneratorIsTheProductOfTheFactors : check5 toy = true ∧ 167 < 168 ∧ toy.bchFactors.Perm toy.bchFactors :=
  ⟨by decide +kernel, by decide, .refl _⟩

theorem witness_ScheduleEntriesInOrder :
    check6 toy = true ∧ (toy.ldpcBase.get .pre)[0]? = some ⟨3, [5, 200, 719]⟩ ∧ 359 < 360 ∧
      [5, 200, 719][2]? = some 719 ∧ 359 < kLdpcOf toy .pre := by decide +kernel

theorem witness_PackSerialisesTheFields :
    (State.reset.configured = false) ∧
      (let s := configuredAt toyBad 0 [] 0;
        s.configured = true ∧ ((s.params.schema.get .pre).at s.actCfg).sum ≠ (s.params.expLen.get .pre).at s.actCfg) ∧
      let s := configuredAt toy 0 gapped 7
      s.Inv ∧ s.configured = true ∧ ((s.params.schema.get .pre).at s.actCfg).sum = (s.params.expLen.get .pre).at s.actCfg ∧
        ((s.params.schema.get .pre).at s.actCfg)[3]? = some 25 ∧ 24 < 25 :=
  ⟨rfl, ⟨rfl, by decide⟩, inv_configuredAt _ toy_accepts_0 wf_gapped, rfl, rfl, rfl, by decide⟩

theorem witness_CrcAppendAppendsTheCrc :
    (64800 < ({ State.reset with cursor := 64769 }).cursor.toNat + 32) ∧
      (let s := { State.reset with fb := gapped, cursor := 3 };
        s.cursor.toNat + 32 ≤ 64800 ∧ s.fb.wf ∧ [true, false].length < s.cursor.toNat ∧
          HoldsBits s.fb 0 [true, false] ∧ s.fb.elem 2 = none) ∧
      let s := { State.reset with fb := zeros 64768, cursor := 64768 }
      s.cursor.toNat + 32 ≤ 64800 ∧ s.fb.wf ∧ (List.replicate 64768 false).length = s.cursor.toNat ∧
        HoldsBits s.fb 0 (List.replicate 64768 false) :=
  ⟨by decide, ⟨by decide, wf_gapped, by decide, gapped_fails.1⟩, by decide, wf_zeros _,
    List.length_replicate.trans (by decide), holds_zeros (by decide)⟩

theorem witness_PadFillsWithZeros :
    (let s := configuredAt toy 0 [] 99;
      s.configured = true ∧ s.cursor.toNat ≠ (s.store.dp.recs.get .pre).kSig) ∧
      let s := configuredAt toy 0 [] 100
      s.Inv ∧ s.configured = true ∧ s.cursor.toNat = (s.store.dp.recs.get .pre).kSig :=
  ⟨⟨rfl, by decide +kernel⟩, inv_configuredAt _ toy_accepts_0 (by decide), rfl, by decide +kernel⟩

/-- The lengths of P3's record. -/
theorem toy_lengths (r : Rec) :
    let d := (storeOf toy 0).dp.recs.get r
    d.kSig = 100 ∧ d.kBch = 192 ∧ d.kLdpc = 360 ∧ d.pBits = 720 ∧ d.nFec = 588 ∧ d.nPunc = 400 ∧ d.nSym = 588 := by
  cases r <;> decide +kernel

theorem witness_BchEncodeAppendsTheParity :
    (let s := configuredAt toy 0 [] 191;
      s.configured = true ∧ s.cursor.toNat ≠ (s.store.dp.recs.get .pre).kBch) ∧
      (let s := configuredAt toy 0 gapped 192;
        s.Inv ∧ s.configured = true ∧ s.cursor.toNat = (s.store.dp.recs.get .pre).kBch ∧ HoldsBits s.fb 0 [true, false] ∧
          s.fb.elem 2 = none) ∧
      let s := configuredAt toy 0 (zeros 192) 192
      s.Inv ∧ s.configured = true ∧ s.cursor.toNat = (s.store.dp.recs.get .pre).kBch ∧
        (List.replicate 192 false).length = (s.store.dp.recs.get .pre).kBch ∧ HoldsBits s.fb 0 (List.replicate 192 false) :=
  ⟨⟨rfl, by decide +kernel⟩,
    ⟨inv_configuredAt _ toy_accepts_0 wf_gapped, rfl, by decide +kernel, gapped_fails.1⟩,
    inv_configuredAt _ toy_accepts_0 (wf_zeros _), rfl, by decide +kernel, by decide +kernel, holds_zeros (by decide)⟩

theorem witness_BchParityIsLinear :
    [true, false].length = [true, true].length ∧ 1 < [true, false].length ∧ (genOf toy).getLsbD 0 = true := by
  decide +kernel

theorem witness_LdpcEncodeAppendsTheParity :
    (let s := configuredAt toy 0 [] 359;
      s.configured = true ∧ s.cursor.toNat ≠ (s.store.dp.recs.get .pre).kLdpc) ∧
      let s := configuredAt toy 0 (zeros 360) 360
      s.Inv ∧ s.configured = true ∧ s.cursor.toNat = (s.store.dp.recs.get .pre).kLdpc ∧
        (List.replicate 360 false).length = (s.store.dp.recs.get .pre).kLdpc ∧
        HoldsBits s.fb 0 (List.replicate 360 false) :=
  ⟨⟨rfl, by decide +kernel⟩, inv_configuredAt _ toy_accepts_0 (wf_zeros _), rfl, by decide +kernel, by decide +kernel,
    holds_zeros (by decide)⟩

theorem witness_LdpcParityMeetsItsChecks : 0 < 720 ∧ 719 < 720 ∧ [true].length = [false].length := by decide

theorem witness_PunctureLeavesTheTransmittedSequence :
    (let s := configuredAt toy 0 [] 1079;
      s.configured = true ∧ s.cursor.toNat ≠ s.params.nLdpcSig) ∧
      let s := configuredAt toy 0 (zeros 1080) 1080
      s.Inv ∧ s.configured = true ∧ s.cursor.toNat = s.params.nLdpcSig ∧
        (List.replicate 1080 false).length = s.params.nLdpcSig ∧ HoldsBits s.fb 0 (List.replicate 1080 false) :=
  ⟨⟨rfl, by decide⟩, inv_configuredAt _ toy_accepts_0 (wf_zeros _), rfl, by decide, List.length_replicate,
    holds_zeros (by decide)⟩

theorem witness_RemovedSetHasNpuncBits : failedCheck toy 0 = none := toy_accepts_0

theorem puncture_completes {s : State} {bs : List Bool} (hc : s.configured = true)
    (hn : s.cursor.toNat = s.params.nLdpcSig) (hr : readBits s.fb s.params.nLdpcSig = .ok bs) :
    ∃ t, exec (punctureOf .pre) s = .next t ∧ t.err = s.err :=
  ⟨_, (runConfigured_of_configured hc).trans (runAlways_ok (punctureBody_ok.2 ⟨hn, _, hr, rfl⟩)), rfl⟩

theorem witness_PunctureLengthProperty :
    ∃ s t : State, s.Inv ∧ s.err = false ∧ exec (punctureOf .pre) s = .next t ∧ t.err = false := by
  obtain ⟨t, ht, he⟩ := puncture_completes (s := configuredAt toy 0 (zeros 1080) 1080) rfl (by decide)
    (readBits_zeros (by decide))
  exact ⟨_, t, inv_configuredAt _ toy_accepts_0 (wf_zeros _), rfl, ht, he⟩

theorem witness_InterleavePayPermutesTheFrame :
    (let s := configuredAt toy 0x0010 [] 64799;
      s.Inv ∧ s.configured = true ∧ s.actCfg.getLsbD 0 = false ∧ s.cursor.toNat ≠ 64800) ∧
      (let s := configuredAt toy 0x0010 (zeros 64800) 64800;
        s.Inv ∧ s.configured = true ∧ s.actCfg.getLsbD 0 = false ∧ s.cursor.toNat = 64800 ∧
          (∃ bs : List Bool, bs.length = 64800 ∧ HoldsBits s.fb 0 bs) ∧ payMod s.actCfg ≠ .qpsk) ∧
      let s := configuredAt toy 0 (zeros 64800) 64800
      s.Inv ∧ s.configured = true ∧ s.actCfg.getLsbD 0 = false ∧ s.cursor.toNat = 64800 ∧
        (∃ bs : List Bool, bs.length = 64800 ∧ HoldsBits s.fb 0 bs) ∧ payMod s.actCfg = .qpsk :=
  ⟨⟨inv_configuredAt _ toy_accepts_16 (by decide), rfl, rfl, by decide⟩,
    ⟨inv_configuredAt _ toy_accepts_16 (wf_zeros _), rfl, rfl, by decide,
      ⟨_, List.length_replicate, holds_zeros (by decide)⟩, by decide⟩,
    inv_configuredAt _ toy_accepts_0 (wf_zeros _), rfl, rfl, by decide,
    ⟨_, List.length_replicate, holds_zeros (by decide)⟩, by decide⟩

theorem witness_InterleavePostPermutesTheRecord :
    (let s := configuredAt toy 0x0080 [] 0;
      s.configured = true ∧ s.actCfg.toNat / 128 % 16 ≠ 2 ∧ s.actCfg.toNat / 128 % 16 ≠ 3) ∧
      (let s := configuredAt toyPost 0x0100 [] 583;
        s.configured = true ∧ s.actCfg.toNat / 128 % 16 = 2 ∧ s.cursor.toNat ≠ s.store.dp.recs.post.nFec) ∧
      let s := configuredAt toyPost 0x0100 (zeros 584) 584
      s.Inv ∧ s.configured = true ∧ s.actCfg.toNat / 128 % 16 = 2 ∧ s.cursor.toNat = s.store.dp.recs.post.nFec ∧
        ∃ bs : List Bool, bs.length = s.store.dp.recs.post.nFec ∧ HoldsBits s.fb 0 bs :=
  ⟨⟨rfl, by decide, by decide⟩, ⟨rfl, by decide, by decide +kernel⟩,
    inv_configuredAt _ toyPost_accepts (wf_zeros _), rfl, by decide, by decide +kernel,
    List.replicate 584 false, by decide +kernel, holds_zeros (by decide)⟩

theorem witness_InterleaverIsABijection : tableSetWf 8 8100 tables16 = true := by decide

theorem witness_MapEmitsTheSymbols :
    (let s := configuredAt toy 0x0010 [] 6;
      s.Inv ∧ s.configured = true ∧ modulations[modCodeOf s.actCfg .pay]? = some (.qam16, 4) ∧ s.cursor.toNat % 4 ≠ 0) ∧
      (let s := configuredAt toy 0 [] 32401;
        s.Inv ∧ s.configured = true ∧ modulations[modCodeOf s.actCfg .pre]? = some (.bpsk, 1) ∧
          32400 < s.cursor.toNat / 1) ∧
      (let s := configuredAt toy 0x0010 gapped 129600;
        s.Inv ∧ s.configured = true ∧ modulations[modCodeOf s.actCfg .pay]? = some (.qam16, 4) ∧
          s.cursor.toNat % 4 = 0 ∧ s.cursor.toNat / 4 ≤ 32400 ∧ [true, false].length < min s.cursor.toNat 64800 ∧
          HoldsBits s.fb 0 [true, false] ∧ s.fb.elem 2 = none) ∧
      let s := configuredAt toy 0 (zeros 32400) 32400
      s.Inv ∧ s.configured = true ∧ modulations[modCodeOf s.actCfg .pre]? = some (.bpsk, 1) ∧
        s.cursor.toNat % 1 = 0 ∧ s.cursor.toNat / 1 ≤ 32400 ∧ (List.replicate 32400 false).length = s.cursor.toNat ∧
        HoldsBits s.fb 0 (List.replicate 32400 false) :=
  ⟨⟨inv_configuredAt _ toy_accepts_16 (by decide), rfl, rfl, by decide⟩,
    ⟨inv_configuredAt _ toy_accepts_0 (by decide), rfl, rfl, by decide⟩,
    ⟨inv_configuredAt _ toy_accepts_16 wf_gapped, rfl, rfl, by decide, by decide, by decide, gapped_fails.1⟩,
    inv_configuredAt _ toy_accepts_0 (wf_zeros _), rfl, rfl, by decide, by decide,
    List.length_replicate.trans (by decide), holds_zeros (by decide)⟩

theorem witness_EntriesHoldCoordinatesOrRawBits : (List.replicate 8 true).length = eta .qam256 := by decide

/-- The 16-QAM groups 0000 (I = 3) and 0010 (I = 1), and the BPSK groups 0 and 1. -/
theorem witness_ConstellationIsGrayCoded :
    (let ys := [false, false, false, false];
      let zs := [false, false, true, false]
      ys.length = eta .qam16 ∧ zs.length = eta .qam16 ∧ (point .qam16 ys).2 = (point .qam16 zs).2 ∧
        (point .qam16 ys).1 = (point .qam16 zs).1 + 2) ∧
      (point .qpsk [false, false]).1 = (point .qpsk [false, true]).1 ∧
      (point .qpsk [false, false]).2 = (point .qpsk [false, true]).2 + 2 := by decide

/-- P3's core with OUT_REQ written. -/
def readyToAssemble (p : Params) (outReq : BitVec 16) : State := { configuredAt p 0 [] 0 with outReq := outReq }

theorem inv_readyToAssemble (outReq : BitVec 16) : (readyToAssemble toy outReq).Inv :=
  inv_configuredAt (fb := []) 0 toy_accepts_0 (by decide)

theorem witness_AssembleProducesTheFrame :
    ((busyWith 0x20100000#32).busy = true ∧ (busyWith 0x20100000#32).latch = 0x20100000#32) ∧
    (let s := readyToAssemble toy 0;
      s.configured = true ∧ s.outReq.toNat ≠ (s.store.dp.recs.get .pre).nSym) ∧
      (let s := readyToAssemble toyBad 588;
        s.configured = true ∧ s.outReq.toNat = (s.store.dp.recs.get .pre).nSym ∧
          ((s.params.schema.get .pre).at s.actCfg).sum ≠ (s.params.expLen.get .pre).at s.actCfg) ∧
      let s := readyToAssemble toy 588
      s.Inv ∧ s.configured = true ∧ s.outReq.toNat = (s.store.dp.recs.get .pre).nSym ∧
        ((s.params.schema.get .pre).at s.actCfg).sum = (s.params.expLen.get .pre).at s.actCfg :=
  ⟨⟨rfl, rfl⟩, ⟨rfl, by decide +kernel⟩, ⟨rfl, by decide +kernel, by decide +kernel⟩, inv_readyToAssemble _, rfl,
    by decide +kernel,
    by decide +kernel⟩

theorem witness_AssembleFailsOnlyBeforeItWrites :
    ∃ t, (readyToAssemble toy 0).Inv ∧ (readyToAssemble toy 0).err = false ∧
      exec (assembleOf .pre) (readyToAssemble toy 0) = .next t ∧ t.err = true :=
  ⟨_, inv_readyToAssemble _, rfl, rfl, rfl⟩

/-- Two states that differ in CURSOR and the frame buffer. -/
theorem witness_AssembleIsStatelessAcrossFrames :
    let s := readyToAssemble toy 0
    let s' := { s with fb := gapped, cursor := 9 }
    SameAssembleInputs .pre s s' ∧ s.err = false ∧ s'.err = false ∧ ∃ t, exec (assembleOf .pre) s = .next t :=
  ⟨⟨rfl, rfl, rfl, rfl, rfl, rfl, rfl⟩, rfl, rfl, _, rfl⟩

theorem witness_PayloadProducesTheFrame :
    (let s := configuredAt toy 0x0010 [] 0;
      s.configured = true ∧ s.outReq ≠ s.store.regs.nSymPay) ∧
      (let s := { configuredAt toy 0x0010 gapped 0 with outReq := 16200 };
        s.Inv ∧ s.configured = true ∧ s.outReq = s.store.regs.nSymPay ∧
          HoldsBits s.fb 0 [true, false] ∧ s.fb.elem 2 = none) ∧
      let s := { configuredAt toy 0x0010 (zeros 64800) 0 with outReq := 16200 }
      s.Inv ∧ s.configured = true ∧ s.outReq = s.store.regs.nSymPay ∧ s.actCfg.getLsbD 0 = false ∧
        (List.replicate 64800 false).length = 64800 ∧ HoldsBits s.fb 0 (List.replicate 64800 false) :=
  ⟨⟨rfl, by decide +kernel⟩,
    ⟨inv_configuredAt (fb := gapped) 0 toy_accepts_16 wf_gapped, rfl, by decide +kernel, gapped_fails.1⟩,
    inv_configuredAt (fb := zeros 64800) 0 toy_accepts_16 (wf_zeros _), rfl, by decide +kernel, rfl,
    List.length_replicate, holds_zeros (by decide)⟩

/-- 95_test_vectors.md V-ASM-4: a PAYLOAD on a consumed frame is ERR_UNDEF(0). -/
theorem test_payload_without_new_input :
    execPayload { configuredAt toy 0x0010 [] 0 with outReq := 16200 } =
      .next (raise (.undef 0) { configuredAt toy 0x0010 [] 0 with outReq := 16200 }) :=
  execPayload_fresh rfl (by decide +kernel) (by decide +kernel) rfl

theorem witness_EveryStepKeepsTheInvariant :
    let s := { configuredAt toy 0 gapped 0 with inputs := [.bus ⟨.write 0x11000000#32, 0x00008, .w32⟩] }
    ∃ t, s.Inv ∧ step s = .next t :=
  ⟨_, inv_configuredAt (fb := gapped) 0 toy_accepts_0 wf_gapped, rfl⟩

end Sys2Proof.Tests
end

/-! The state family (10_state.md): how every command ends and what its body may write, the registers a host access
reads and writes, and the invariant. -/

namespace Sys2Proof.Proofs

open Sys2Proof Sys2Proof.Machine Sys2Proof.Claims

/-! ### The body of every command -/

/-- CONFIGURE as a body. A failed one also clears CONFIGURED, which is no effect of its body: `exec_cases` adds it
(40_control.md R147). -/
def configureBody : Body := fun s =>
  match failedCheck s.params s.cfg0 with
  | none => .ok (commitConfig s)
  | some n => .error (.config n)

/-- The body of each command: what it does between issue and its completion bits (40_control.md R141). -/
def bodyOf : Instr → Body
  | .nop => fun s => .ok s
  | .configure => configureBody
  | .softReset => fun s => .ok (resetCore s)
  | .clear => consumeFrame
  | .packPre => packBody .pre
  | .packPost => packBody .post
  | .crcAppend => crcBody
  | .padPre => padBody .pre
  | .padPost => padBody .post
  | .bchEncodePre => bchBody .pre
  | .bchEncodePost => bchBody .post
  | .ldpcEncodePre => ldpcBody .pre
  | .ldpcEncodePost => ldpcBody .post
  | .puncturePre => punctureBody .pre
  | .puncturePost => punctureBody .post
  | .interleavePay => interleavePayBody
  | .interleavePost => interleavePostBody
  | .mapPay => mapBody .pay
  | .mapPre => mapBody .pre
  | .mapPost => mapBody .post
  | .assemblePre => assembleBody .pre
  | .assemblePost => assembleBody .post
  | .payload => payloadBody

/-- The state in which a command's error is raised: CONFIGURE alone changes it (40_control.md R147). -/
def failedState (i : Instr) (s : State) : State :=
  { s with configured := if i = .configure then false else s.configured }

theorem failedState_of_ne {i : Instr} (h : i ≠ .configure) (s : State) : failedState i s = s := by
  simp [failedState, h]

/-- The cfg column of 30_encoding.md R112 says how a command other than CONFIGURE runs its body. -/
theorem exec_eq_run {i : Instr} (h : i ≠ .configure) (s : State) :
    exec i s = if needsConfig i then runConfigured (bodyOf i) s else runAlways (bodyOf i) s := by
  cases i with
  | configure => exact absurd rfl h
  | _ => rfl

/-- How a command ends: in success with what its body leaves, in its body's error, or in ERR_NOTCFG
(40_control.md R141). -/
theorem exec_cases (i : Instr) (s : State) :
    (∃ u, bodyOf i s = .ok u ∧ exec i s = .next (finish u)) ∨
      (∃ e, bodyOf i s = .error e ∧ exec i s = .next (raise e (failedState i s))) ∨
      (needsConfig i = true ∧ s.configured = false ∧ exec i s = .next (raise (.notCfg s.latch) s)) := by
  by_cases hi : i = .configure
  · subst hi
    rcases execConfigure_cases s with ⟨hc, h⟩ | ⟨n, hc, h⟩
    · exact .inl ⟨_, by simp [bodyOf, configureBody, hc], h⟩
    · exact .inr (.inl ⟨_, by simp [bodyOf, configureBody, hc], h⟩)
  · rw [exec_eq_run hi, failedState_of_ne hi]
    cases hn : needsConfig i with
    | false =>
      rcases runAlways_cases (bodyOf i) s with h | h
      · exact .inl h
      · exact .inr (.inl h)
    | true =>
      rcases runConfigured_cases (bodyOf i) s with h | ⟨-, h⟩ | ⟨-, h⟩
      · exact .inr (.inr ⟨rfl, h⟩)
      · exact .inl h
      · exact .inr (.inl h)

/-! ### What a body may write -/

/-- `s` with the buffers, counters and result registers of the data path as in `d`. -/
def withData (s d : State) : State :=
  { s with
    fb := d.fb, ob := d.ob, cursor := d.cursor, outCount := d.outCount, outMod := d.outMod
    crcValue := d.crcValue, puncCount := d.puncCount, removedCount := d.removedCount }

/-- A data-path effect: only the fields of `withData` change, the buffers keep their canonical form and the output
registers their range. -/
structure DataStep (s t : State) : Prop where
  frame : t = withData s t
  fb_wf : s.fb.wf → t.fb.wf
  ob_wf : s.ob.wf obSize → t.ob.wf obSize
  outputOk : s.OutputOk → t.OutputOk

theorem DataStep.refl (s : State) : DataStep s s := ⟨rfl, id, id, id⟩

theorem DataStep.trans {s t u : State} (h : DataStep s t) (h' : DataStep t u) : DataStep s u where
  frame := h'.frame.trans (by rw [h.frame]; rfl)
  fb_wf := h'.fb_wf ∘ h.fb_wf
  ob_wf := h'.ob_wf ∘ h.ob_wf
  outputOk := h'.outputOk ∘ h.outputOk

/-- Every success of the body is a data-path effect. -/
def IsDataBody (b : Body) : Prop := ∀ ⦃s t : State⦄, b s = .ok t → DataStep s t

theorem IsDataBody.andThen {f g : Body} (hf : IsDataBody f) (hg : IsDataBody g) : IsDataBody (andThen f g) := by
  intro s u h
  obtain ⟨t, h1, h2⟩ := andThen_ok.1 h
  exact (hf h1).trans (hg h2)

theorem consumeFrame_isData : IsDataBody consumeFrame := by
  rintro s t ⟨⟩
  exact ⟨rfl, fun _ => Memory.wf_invalid, id, id⟩

theorem packBody_isData (r : Rec) : IsDataBody (packBody r) := by
  intro s t h
  obtain ⟨-, rfl⟩ := packBody_ok.1 h
  exact ⟨rfl, fun _ => Memory.wf_writeBits Memory.wf_invalid _ _, id, id⟩

theorem crcBody_isData : IsDataBody crcBody := by
  intro s t h
  obtain ⟨-, bs, -, rfl⟩ := crcBody_ok.1 h
  exact ⟨rfl, fun hw => Memory.wf_writeBits hw _ _, id, id⟩

theorem padBody_isData (r : Rec) : IsDataBody (padBody r) := by
  intro s t h
  obtain ⟨-, rfl⟩ := padBody_ok.1 h
  exact ⟨rfl, fun hw => Memory.wf_writeBits hw _ _, id, id⟩

theorem bchBody_isData (r : Rec) : IsDataBody (bchBody r) := by
  intro s t h
  obtain ⟨-, ms, -, rfl⟩ := bchBody_ok.1 h
  exact ⟨rfl, fun hw => Memory.wf_writeBits hw _ _, id, id⟩

theorem ldpcBody_isData (r : Rec) : IsDataBody (ldpcBody r) := by
  intro s t h
  obtain ⟨-, ms, -, rfl⟩ := ldpcBody_ok.1 h
  exact ⟨rfl, fun hw => Memory.wf_writeBits hw _ _, id, id⟩

theorem punctureBody_isData (r : Rec) : IsDataBody (punctureBody r) := by
  intro s t h
  obtain ⟨-, bs, -, rfl⟩ := punctureBody_ok.1 h
  exact ⟨rfl, fun _ => Memory.wf_writeBits Memory.wf_invalid _ _, id, id⟩

theorem interleavePayBody_isData : IsDataBody interleavePayBody := by
  intro s t h
  obtain ⟨-, bs, -, rfl⟩ := interleavePayBody_ok.1 h
  exact ⟨rfl, fun hw => Memory.wf_writeBits hw _ _, id, id⟩

theorem interleavePostBody_isData : IsDataBody interleavePostBody := by
  intro s t h
  obtain ⟨-, -, bs, -, rfl⟩ := interleavePostBody_ok.1 h
  exact ⟨rfl, fun hw => Memory.wf_writeBits hw _ _, id, id⟩

/-- The MODCODE of OUT_MOD is that of one of the five modulations (46_mapper.md R290). -/
theorem outModOf_modCode (raw : Bool) (m : Modulation) : ((outModOf raw m).extractLsb' 0 3).toNat ≤ 4 := by
  cases raw <;> cases m <;> decide

theorem mapBody_isData (sel : MapSel) : IsDataBody (mapBody sel) := by
  intro s t h
  obtain ⟨-, hn, bs, -, rfl⟩ := mapBody_ok.1 h
  refine ⟨rfl, id, fun hw => WordRam.wf_write hw (by simpa using hn), fun _ => ⟨?_, outModOf_modCode _ _⟩⟩
  exact (BitVec.toNat_ofNat _ _).trans_le ((Nat.mod_le _ _).trans hn)

theorem interleaveStage_isData (r : Rec) : IsDataBody (interleaveStage r) := by
  intro s t h
  cases r with
  | pre => cases h; exact .refl s
  | post =>
    simp only [interleaveStage] at h
    split at h
    · exact interleavePostBody_isData h
    · cases h; exact .refl s

theorem assembleStages_isData (r : Rec) : IsDataBody (assembleStages r) :=
  (packBody_isData r).andThen <| crcBody_isData.andThen <| (padBody_isData r).andThen <|
    (bchBody_isData r).andThen <| (ldpcBody_isData r).andThen <| (punctureBody_isData r).andThen <|
      (interleaveStage_isData r).andThen (mapBody_isData _)

theorem assembleBody_ok {r : Rec} {s t : State} :
    assembleBody r s = .ok t ↔
      s.outReq.toNat = (s.store.dp.recs.get r).nSym ∧ assembleStages r s = .ok t := by
  unfold assembleBody
  by_cases h : s.outReq.toNat = (s.store.dp.recs.get r).nSym <;> simp [h]

theorem assembleBody_error {r : Rec} {s : State} {e : CmdError} :
    assembleBody r s = .error e ↔
      (s.outReq.toNat ≠ (s.store.dp.recs.get r).nSym ∧ e = .outSize s.outReq) ∨
        (s.outReq.toNat = (s.store.dp.recs.get r).nSym ∧ assembleStages r s = .error e) := by
  unfold assembleBody
  by_cases h : s.outReq.toNat = (s.store.dp.recs.get r).nSym <;> simp [h, eq_comm]

/-- The stages of PAYLOAD, after the frame was read (47_assembler.md R307). -/
def payloadStages : Body := andThen interleavePayBody (andThen (mapBody .pay) consumeFrame)

/-- The state PAYLOAD's stages start from: the frame alone, CURSOR behind it (70_reset_and_hazards.md R374). -/
def frameLoaded (s : State) (bs : List Bool) : State :=
  { s with fb := freshFrame bs, cursor := BitVec.ofNat 17 s.store.dp.nFrame }

theorem payloadBody_ok {s t : State} :
    payloadBody s = .ok t ↔
      s.outReq = s.store.regs.nSymPay ∧
        ∃ bs, readBits s.fb s.store.dp.nFrame = .ok bs ∧ payloadStages (frameLoaded s bs) = .ok t := by
  unfold payloadBody
  by_cases h : s.outReq = s.store.regs.nSymPay
  · cases hr : readBits s.fb s.store.dp.nFrame <;> simp [h, payloadStages, frameLoaded]
  · simp [h]

theorem payloadBody_error {s : State} {e : CmdError} :
    payloadBody s = .error e ↔
      (s.outReq ≠ s.store.regs.nSymPay ∧ e = .outSize s.outReq) ∨
        (s.outReq = s.store.regs.nSymPay ∧
          (readBits s.fb s.store.dp.nFrame = .error e ∨
            ∃ bs, readBits s.fb s.store.dp.nFrame = .ok bs ∧ payloadStages (frameLoaded s bs) = .error e)) := by
  unfold payloadBody
  by_cases h : s.outReq = s.store.regs.nSymPay
  · cases hr : readBits s.fb s.store.dp.nFrame <;> simp [h, payloadStages, frameLoaded]
  · simp [h, eq_comm]

theorem frameLoaded_dataStep (s : State) (bs : List Bool) : DataStep s (frameLoaded s bs) :=
  ⟨rfl, fun _ => Memory.wf_writeBits Memory.wf_invalid _ _, id, id⟩

theorem payloadBody_isData : IsDataBody payloadBody := by
  intro s t h
  obtain ⟨-, bs, -, h⟩ := payloadBody_ok.1 h
  exact (frameLoaded_dataStep s bs).trans
    (interleavePayBody_isData.andThen ((mapBody_isData _).andThen consumeFrame_isData) h)

/-- Every body but those of CONFIGURE and SOFT_RESET has a data-path effect only. -/
theorem bodyOf_isData {i : Instr} (hc : i ≠ .configure) (hr : i ≠ .softReset) : IsDataBody (bodyOf i) := by
  cases i with
  | nop => rintro s t ⟨⟩; exact .refl s
  | configure => exact absurd rfl hc
  | softReset => exact absurd rfl hr
  | clear => exact consumeFrame_isData
  | packPre | packPost => exact packBody_isData _
  | crcAppend => exact crcBody_isData
  | padPre | padPost => exact padBody_isData _
  | bchEncodePre | bchEncodePost => exact bchBody_isData _
  | ldpcEncodePre | ldpcEncodePost => exact ldpcBody_isData _
  | puncturePre | puncturePost => exact punctureBody_isData _
  | interleavePay => exact interleavePayBody_isData
  | interleavePost => exact interleavePostBody_isData
  | mapPay | mapPre | mapPost => exact mapBody_isData _
  | assemblePre | assemblePost =>
    intro s t h
    exact assembleStages_isData _ (assembleBody_ok.1 h).2
  | payload => exact payloadBody_isData

/-- What a successful body leaves: the reset state, the committed configuration, or a data-path effect. -/
theorem bodyOf_ok_cases {i : Instr} {s u : State} (h : bodyOf i s = .ok u) :
    (i = .softReset ∧ u = resetCore s) ∨
      (i = .configure ∧ failedCheck s.params s.cfg0 = none ∧ u = commitConfig s) ∨
      (i ≠ .softReset ∧ i ≠ .configure ∧ DataStep s u) := by
  by_cases hr : i = .softReset
  · subst hr; cases h; exact .inl ⟨rfl, rfl⟩
  by_cases hc : i = .configure
  · subst hc
    simp only [bodyOf, configureBody] at h
    cases hf : failedCheck s.params s.cfg0 with
    | none => simp only [hf, Except.ok.injEq] at h; exact .inr (.inl ⟨rfl, rfl, h.symm⟩)
    | some n => simp [hf] at h
  · exact .inr (.inr ⟨hr, hc, bodyOf_isData hc hr h⟩)

/-- A state in which the core reports no error stays one until the completion bits. -/
theorem bodyOf_keeps_err {i : Instr} {s u : State} (hs : s.err = false) (h : bodyOf i s = .ok u) : u.err = false := by
  rcases bodyOf_ok_cases h with ⟨-, rfl⟩ | ⟨-, -, rfl⟩ | ⟨-, -, hd⟩
  · rfl
  · exact hs
  · exact (congrArg State.err hd.frame).trans hs

/-! ### The invariant -/

theorem resetCore_inv (s : State) : (resetCore s).Inv :=
  ⟨reset_buffers_wf, by simp [State.StatusOk], by simp [State.ConfigOk], by simp [State.OutputOk]⟩

theorem DataStep.inv {s t : State} (h : DataStep s t) (hs : s.Inv) : t.Inv := by
  obtain ⟨⟨hfb, hob, hslots⟩, hstatus, hconfig, houtput⟩ := hs
  refine ⟨⟨h.fb_wf hfb, h.ob_wf hob, ?_⟩, ?_, ?_, h.outputOk houtput⟩ <;> rw [h.frame]
  · exact hslots
  · exact hstatus
  · exact hconfig

theorem commitConfig_inv {s : State} (hs : s.Inv) (hc : failedCheck s.params s.cfg0 = none) : (commitConfig s).Inv := by
  obtain ⟨hbuffers, hstatus, -, houtput⟩ := hs
  exact ⟨hbuffers, hstatus, fun _ => ⟨hc, rfl⟩, houtput⟩

theorem bodyOf_keeps_inv {i : Instr} {s u : State} (hs : s.Inv) (h : bodyOf i s = .ok u) : u.Inv := by
  rcases bodyOf_ok_cases h with ⟨-, rfl⟩ | ⟨-, hc, rfl⟩ | ⟨-, -, hd⟩
  · exact resetCore_inv s
  · exact commitConfig_inv hs hc
  · exact hd.inv hs

theorem finish_inv {s : State} (hs : s.Inv) (he : s.err = false) : (finish s).Inv := by
  obtain ⟨hbuffers, ⟨-, -, hclear, -⟩, hconfig, houtput⟩ := hs
  exact ⟨hbuffers, ⟨by simp, fun _ => he, hclear, by simp [he]⟩, hconfig, houtput⟩

/-- The codes of 60_exceptions.md R331. -/
theorem errorCode_range (e : CmdError) : 1 ≤ e.code.toNat ∧ e.code.toNat ≤ 8 := by
  cases e <;> simp [CmdError.code]

theorem raise_inv {s : State} (e : CmdError) (hs : s.Inv) (hd : s.done = false) : (raise e s).Inv := by
  obtain ⟨hbuffers, -, hconfig, houtput⟩ := hs
  exact ⟨hbuffers, ⟨by simp, by simp [hd], by simp, fun _ => errorCode_range e⟩, hconfig, houtput⟩

theorem failedState_inv {s : State} (i : Instr) (hs : s.Inv) : (failedState i s).Inv := by
  obtain ⟨hbuffers, hstatus, hconfig, houtput⟩ := hs
  refine ⟨hbuffers, hstatus, fun h => hconfig ?_, houtput⟩
  by_cases hi : i = .configure <;> simp_all [failedState]

theorem exec_keeps_inv {i : Instr} {s t : State} (hs : s.Inv) (hd : s.done = false) (he : s.err = false)
    (h : exec i s = .next t) : t.Inv := by
  rcases exec_cases i s with ⟨u, hu, hx⟩ | ⟨e, -, hx⟩ | ⟨-, -, hx⟩ <;> cases hx.symm.trans h
  · exact finish_inv (bodyOf_keeps_inv hs hu) (bodyOf_keeps_err he hu)
  · exact raise_inv e (failedState_inv i hs) hd
  · exact raise_inv _ hs hd

theorem engineTurn_keeps_inv {s t : State} (hs : s.Inv) (h : engineTurn s = .next t) : t.Inv := by
  have hbusy : s.busy = true → s.done = false ∧ s.err = false := hs.2.1.1
  rcases engineTurn_cases s with ⟨-, hx⟩ | ⟨hb, -, hx⟩ | ⟨hb, i, -, hx⟩ <;> rw [hx] at h
  · cases h; exact hs
  · cases h; exact raise_inv _ hs (hbusy hb).1
  · exact exec_keeps_inv hs (hbusy hb).1 (hbusy hb).2 h

theorem acknowledge_inv {s : State} (v : Word) (hs : s.Inv) : (acknowledge v s).Inv := by
  obtain ⟨hbuffers, ⟨hbusy, hdone, hclear, hcode⟩, hconfig, houtput⟩ := hs
  refine ⟨hbuffers, ⟨fun hb => ?_, fun hd => ?_, ?_, ?_⟩, hconfig, houtput⟩
  · obtain ⟨hd, he⟩ := hbusy hb
    simp [hd, he]
  · simp only [acknowledge_done, Bool.and_eq_true] at hd
    simp [hdone hd.1]
  · cases hv : v.getLsbD 2
    · simpa only [acknowledge_err, acknowledge_errCode, acknowledge_errInfo, hv, Bool.not_false, Bool.and_true,
        Bool.false_eq_true, if_false] using hclear
    · simp only [acknowledge_errCode, acknowledge_errInfo, hv, if_true, and_self, implies_true]
  · cases hv : v.getLsbD 2
    · simpa only [acknowledge_err, acknowledge_errCode, hv, Bool.not_false, Bool.and_true,
        Bool.false_eq_true, if_false] using hcode
    · simp only [acknowledge_err, hv, Bool.not_true, Bool.and_false, Bool.false_eq_true, false_implies]

theorem issue_inv {s : State} (w : Word) (hs : s.Inv) : (issue w s).Inv := by
  unfold issue
  split
  case isTrue => exact hs
  case isFalse he =>
    obtain ⟨hbuffers, ⟨-, -, hclear, -⟩, hconfig, houtput⟩ := hs
    exact ⟨hbuffers, ⟨fun _ => ⟨rfl, by simpa using he⟩, nofun, hclear, fun h => absurd h he⟩, hconfig, houtput⟩

/-- A field window has 1024 slots (20_memory.md R87); every other target exists. -/
def SlotExists : Target → Prop
  | .field _ i => i < nfMax
  | _ => True

theorem slotExists_ite {c : Prop} {_ : Decidable c} {x y : Target} (hy : SlotExists y) (hx : c → SlotExists x) :
    SlotExists (if c then x else y) := by
  split
  · exact hx ‹c›
  · exact hy

theorem targetOf_slotExists (a : Nat) : SlotExists (targetOf a) := by
  unfold targetOf
  repeat refine slotExists_ite ?_ (fun _ => ?_)
  all_goals simp only [SlotExists, nfMax]
  all_goals omega

theorem fieldWrite_inv {s : State} (r : Rec) {i : Nat} (v : Word) (hs : s.Inv) (hi : i < nfMax) :
    (writeTarget s v (.field r i)).Inv := by
  obtain ⟨⟨hfb, hob, hpre, hpost⟩, hrest⟩ := hs
  cases r with
  | pre => exact ⟨⟨hfb, hob, WordRam.wf_write hpre hi, hpost⟩, hrest⟩
  | post => exact ⟨⟨hfb, hob, hpre, WordRam.wf_write hpost hi⟩, hrest⟩

theorem withFb_inv {s : State} {m : Memory} (hs : s.Inv) (hm : m.wf) : ({ s with fb := m } : State).Inv := by
  obtain ⟨⟨-, hrams⟩, hrest⟩ := hs
  exact ⟨⟨hm, hrams⟩, hrest⟩

theorem writeTarget_inv {s : State} (v : Word) (a : Nat) (hs : s.Inv) : (writeTarget s v (targetOf a)).Inv := by
  have hslot := targetOf_slotExists a
  cases ht : targetOf a with
  | status => exact acknowledge_inv v hs
  | cmd => exact issue_inv v hs
  | field r i => rw [ht] at hslot; exact fieldWrite_inv r v hs hslot
  | fbElems w => exact withFb_inv hs (Memory.wf_write hs.1.1 _ _)
  | fbPacked w => exact withFb_inv hs (Memory.wf_writeBits hs.1.1 _ _)
  | _ => exact hs

theorem hostAccess_keeps_inv {s t : State} {a : Access} (hs : s.Inv) (h : hostAccess a s = .next t) : t.Inv := by
  rcases hostAccess_cases a s with ⟨-, hx⟩ | ⟨-, -, -, hx⟩ | ⟨-, -, ⟨-, hx⟩ | ⟨v, -, hx⟩⟩ <;> cases hx.symm.trans h
  · exact hs
  · exact writeTarget_inv v a.addr hs

theorem takeInput_keeps_inv {s t : State} (i : Input) (hs : s.Inv) (h : takeInput i s = .next t) : t.Inv := by
  cases i with
  | bus a => exact hostAccess_keeps_inv hs h
  | engine => exact engineTurn_keeps_inv hs h
  | reset => cases h; exact resetCore_inv s

/-- Settles O60: whichever input acts, the invariant is kept; for the engine's turn because the body of a command keeps it
and a busy core reports neither DONE nor ERR. -/
theorem everyStepKeepsTheInvariant : Obligations.EveryStepKeepsTheInvariant := by
  intro s t hs h
  unfold step at h
  cases hin : s.inputs with
  | nil => rw [hin] at h; exact engineTurn_keeps_inv hs h
  | cons i rest =>
    rw [hin] at h
    exact takeInput_keeps_inv (s := { s with inputs := rest }) i hs h

/-- Settles O59: the reset state is a core that was just reset. -/
theorem resetMeetsTheInvariant : Obligations.ResetMeetsTheInvariant := resetCore_inv State.reset

/-! ### The IRQ line and the host's registers after a command -/

/-- Settles O15: an error leaves DONE as it was, 0, and a success leaves ERR as it was, 0. -/
theorem completionDrivesIrq : Obligations.CompletionDrivesIrq := by
  intro i s t hd he h
  rcases exec_cases i s with ⟨u, hu, hx⟩ | ⟨e, -, hx⟩ | ⟨-, -, hx⟩ <;> cases hx.symm.trans h
  · simp [irq, bodyOf_keeps_err he hu]
  · simp [irq, failedState, hd]
  · simp [irq, hd]

/-- The model's own fields (logs 1, 3, 5, 6). -/
def SameModelFields (s t : State) : Prop :=
  t.params = s.params ∧ t.inputs = s.inputs ∧ t.readData = s.readData ∧ t.draws = s.draws

/-- The registers that the host alone writes (10_state.md R32, R38, R39, R42, R52, R53). -/
def SameHostRegisters (s t : State) : Prop :=
  t.ieDone = s.ieDone ∧ t.ieErr = s.ieErr ∧ t.cfg0 = s.cfg0 ∧ t.outReq = s.outReq ∧ t.slots = s.slots ∧
    t.latch = s.latch

theorem DataStep.sameFields {s t : State} (h : DataStep s t) : SameHostRegisters s t ∧ SameModelFields s t := by
  rw [h.frame]
  exact ⟨⟨rfl, rfl, rfl, rfl, rfl, rfl⟩, rfl, rfl, rfl, rfl⟩

theorem bodyOf_sameFields {i : Instr} {s u : State} (h : bodyOf i s = .ok u) :
    (i ≠ .softReset → SameHostRegisters s u) ∧ SameModelFields s u := by
  rcases bodyOf_ok_cases h with ⟨hi, rfl⟩ | ⟨-, -, rfl⟩ | ⟨-, -, hd⟩
  · exact ⟨fun hn => absurd hi hn, rfl, rfl, rfl, rfl⟩
  · exact ⟨fun _ => ⟨rfl, rfl, rfl, rfl, rfl, rfl⟩, rfl, rfl, rfl, rfl⟩
  · exact ⟨fun _ => hd.sameFields.1, hd.sameFields.2⟩

/-- Settles O26: the completion bits, an error and every body but SOFT_RESET's leave these registers alone. -/
theorem commandsLeaveHostRegisters : Obligations.CommandsLeaveHostRegisters := by
  intro i s t h
  rcases exec_cases i s with ⟨u, hu, hx⟩ | ⟨e, -, hx⟩ | ⟨-, -, hx⟩ <;> cases hx.symm.trans h
  · exact (bodyOf_sameFields hu :)
  all_goals exact ⟨fun _ => ⟨rfl, rfl, rfl, rfl, rfl, rfl⟩, rfl, rfl, rfl, rfl⟩

/-! ### Noninterference: an update of the state that a body does not see -/

/-- The body answers the same from `s` and `f s`, but for the update `f`. -/
def Ignores (b : Body) (f : State → State) : Prop := ∀ s, b (f s) = (b s).map f

/-- The laws of a body say on what its success and its error depend: `f` keeps both conditions. -/
theorem ignores_of {b : Body} {f : State → State} {Q : State → State → Prop} {P : State → CmdError → Prop}
    (hQ : ∀ {s t}, b s = .ok t ↔ Q s t) (hP : ∀ {s e}, b s = .error e ↔ P s e)
    (hok : ∀ s t, Q s t → Q (f s) (f t)) (herror : ∀ s e, P s e → P (f s) e) : Ignores b f := by
  intro s
  cases h : b s with
  | ok t => exact hQ.2 (hok s t (hQ.1 h))
  | error e => exact hP.2 (herror s e (hP.1 h))

theorem Ignores.ok {b : Body} {f : State → State} (hb : Ignores b f) {s t : State} (h : b s = .ok t) :
    b (f s) = .ok (f t) := by rw [hb, h]; rfl

theorem Ignores.error {b : Body} {f : State → State} (hb : Ignores b f) {s : State} {e : CmdError}
    (h : b s = .error e) : b (f s) = .error e := by rw [hb, h]; rfl

theorem Ignores.andThen {b c : Body} {f : State → State} (hb : Ignores b f) (hc : Ignores c f) :
    Ignores (andThen b c) f := by
  refine ignores_of andThen_ok andThen_error ?_ ?_
  · rintro s u ⟨t, h1, h2⟩
    exact ⟨f t, hb.ok h1, hc.ok h2⟩
  · rintro s e (h1 | ⟨t, h1, h2⟩)
    · exact .inl (hb.error h1)
    · exact .inr ⟨f t, hb.ok h1, hc.error h2⟩

/-- The state with CFG0 replaced. -/
def withCfg0 (c : BitVec 15) (s : State) : State := { s with cfg0 := c }

section
variable (c : BitVec 15)

theorem consumeFrame_ignores_cfg0 : Ignores consumeFrame (withCfg0 c) := fun _ => rfl

theorem packBody_ignores_cfg0 (r : Rec) : Ignores (packBody r) (withCfg0 c) :=
  ignores_of packBody_ok packBody_error
    (by rintro s _ ⟨hn, rfl⟩; exact ⟨hn, rfl⟩) (fun _ _ h => h)

theorem crcBody_ignores_cfg0 : Ignores crcBody (withCfg0 c) :=
  ignores_of crcBody_ok crcBody_error
    (by rintro s _ ⟨hn, bs, hr, rfl⟩; exact ⟨hn, bs, hr, rfl⟩) (fun _ _ h => h)

theorem padBody_ignores_cfg0 (r : Rec) : Ignores (padBody r) (withCfg0 c) :=
  ignores_of padBody_ok padBody_error
    (by rintro s _ ⟨hn, rfl⟩; exact ⟨hn, rfl⟩) (fun _ _ h => h)

theorem bchBody_ignores_cfg0 (r : Rec) : Ignores (bchBody r) (withCfg0 c) :=
  ignores_of bchBody_ok bchBody_error
    (by rintro s _ ⟨hn, ms, hr, rfl⟩; exact ⟨hn, ms, hr, rfl⟩) (fun _ _ h => h)

theorem ldpcBody_ignores_cfg0 (r : Rec) : Ignores (ldpcBody r) (withCfg0 c) :=
  ignores_of ldpcBody_ok ldpcBody_error
    (by rintro s _ ⟨hn, ms, hr, rfl⟩; exact ⟨hn, ms, hr, rfl⟩) (fun _ _ h => h)

theorem punctureBody_ignores_cfg0 (r : Rec) : Ignores (punctureBody r) (withCfg0 c) :=
  ignores_of punctureBody_ok punctureBody_error
    (by rintro s _ ⟨hn, bs, hr, rfl⟩; exact ⟨hn, bs, hr, rfl⟩) (fun _ _ h => h)

theorem interleavePayBody_ignores_cfg0 : Ignores interleavePayBody (withCfg0 c) :=
  ignores_of interleavePayBody_ok interleavePayBody_error
    (by rintro s _ ⟨hn, bs, hr, rfl⟩; exact ⟨hn, bs, hr, rfl⟩) (fun _ _ h => h)

theorem interleavePostBody_ignores_cfg0 : Ignores interleavePostBody (withCfg0 c) :=
  ignores_of interleavePostBody_ok interleavePostBody_error
    (by rintro s _ ⟨hm, hn, bs, hr, rfl⟩; exact ⟨hm, hn, bs, hr, rfl⟩) (fun _ _ h => h)

theorem mapBody_ignores_cfg0 (sel : MapSel) : Ignores (mapBody sel) (withCfg0 c) :=
  ignores_of mapBody_ok mapBody_error
    (by rintro s _ ⟨hm, hn, bs, hr, rfl⟩; exact ⟨hm, hn, bs, hr, rfl⟩) (fun _ _ h => h)

theorem interleaveStage_ignores_cfg0 (r : Rec) : Ignores (interleaveStage r) (withCfg0 c) := by
  intro s
  cases r with
  | pre => rfl
  | post =>
    cases hi : l1Interleaved s.actCfg
    · simp [interleaveStage, withCfg0, hi, Except.map]
    · simpa [interleaveStage, withCfg0, hi] using interleavePostBody_ignores_cfg0 c s

theorem assembleStages_ignores_cfg0 (r : Rec) : Ignores (assembleStages r) (withCfg0 c) :=
  (packBody_ignores_cfg0 c r).andThen <| (crcBody_ignores_cfg0 c).andThen <| (padBody_ignores_cfg0 c r).andThen <|
    (bchBody_ignores_cfg0 c r).andThen <| (ldpcBody_ignores_cfg0 c r).andThen <|
      (punctureBody_ignores_cfg0 c r).andThen <| (interleaveStage_ignores_cfg0 c r).andThen (mapBody_ignores_cfg0 c _)

theorem assembleBody_ignores_cfg0 (r : Rec) : Ignores (assembleBody r) (withCfg0 c) := by
  have hstages := assembleStages_ignores_cfg0 c r
  refine ignores_of assembleBody_ok assembleBody_error ?_ ?_
  · rintro s t ⟨hn, h⟩
    exact ⟨hn, hstages.ok h⟩
  · rintro s e (h | ⟨hn, h⟩)
    · exact .inl h
    · exact .inr ⟨hn, hstages.error h⟩

theorem payloadStages_ignores_cfg0 : Ignores payloadStages (withCfg0 c) :=
  (interleavePayBody_ignores_cfg0 c).andThen <| (mapBody_ignores_cfg0 c _).andThen (consumeFrame_ignores_cfg0 c)

theorem payloadBody_ignores_cfg0 : Ignores payloadBody (withCfg0 c) := by
  have hstages := payloadStages_ignores_cfg0 c
  refine ignores_of payloadBody_ok payloadBody_error ?_ ?_
  · rintro s t ⟨ho, bs, hr, h⟩
    exact ⟨ho, bs, hr, hstages.ok h⟩
  · rintro s e (h | ⟨ho, h | ⟨bs, hr, h⟩⟩)
    · exact .inl h
    · exact .inr ⟨ho, .inl h⟩
    · exact .inr ⟨ho, .inr ⟨bs, hr, hstages.error h⟩⟩

theorem bodyOf_ignores_cfg0 {i : Instr} (hc : i ≠ .configure) (hr : i ≠ .softReset) :
    Ignores (bodyOf i) (withCfg0 c) := by
  cases i with
  | nop => exact fun _ => rfl
  | configure => exact absurd rfl hc
  | softReset => exact absurd rfl hr
  | clear => exact consumeFrame_ignores_cfg0 c
  | packPre | packPost => exact packBody_ignores_cfg0 c _
  | crcAppend => exact crcBody_ignores_cfg0 c
  | padPre | padPost => exact padBody_ignores_cfg0 c _
  | bchEncodePre | bchEncodePost => exact bchBody_ignores_cfg0 c _
  | ldpcEncodePre | ldpcEncodePost => exact ldpcBody_ignores_cfg0 c _
  | puncturePre | puncturePost => exact punctureBody_ignores_cfg0 c _
  | interleavePay => exact interleavePayBody_ignores_cfg0 c
  | interleavePost => exact interleavePostBody_ignores_cfg0 c
  | mapPay | mapPre | mapPost => exact mapBody_ignores_cfg0 c _
  | assemblePre | assemblePost => exact assembleBody_ignores_cfg0 c _
  | payload => exact payloadBody_ignores_cfg0 c

end

/-- An update that neither the completion bits nor an error see, nor what decides whether a command runs. -/
structure Inert (f : State → State) : Prop where
  finish : ∀ s, finish (f s) = f (finish s)
  raise : ∀ e s, raise e (f s) = f (raise e s)
  configured : ∀ s, (f s).configured = s.configured
  latch : ∀ s, (f s).latch = s.latch

theorem withCfg0_inert (c : BitVec 15) : Inert (withCfg0 c) :=
  ⟨fun _ => rfl, fun _ _ => rfl, fun _ => rfl, fun _ => rfl⟩

theorem runAlways_ignores {b : Body} {f : State → State} (hf : Inert f) (hb : Ignores b f) {s t : State}
    (h : runAlways b s = .next t) : runAlways b (f s) = .next (f t) := by
  rcases runAlways_cases b s with ⟨u, hu, hx⟩ | ⟨e, he, hx⟩ <;> cases hx.symm.trans h
  · rw [runAlways_ok (hb.ok hu), hf.finish]
  · rw [runAlways_error (hb.error he), hf.raise]

theorem runConfigured_ignores {b : Body} {f : State → State} (hf : Inert f)
    (hb : Ignores b f) {s t : State} (h : runConfigured b s = .next t) :
    runConfigured b (f s) = .next (f t) := by
  cases hc : s.configured with
  | false =>
    rw [runConfigured_of_not hc] at h
    cases h
    rw [runConfigured_of_not ((hf.configured s).trans hc), hf.latch, hf.raise]
  | true =>
    rw [runConfigured_of_configured hc] at h
    rw [runConfigured_of_configured ((hf.configured s).trans hc)]
    exact runAlways_ignores hf hb h

/-- Settles O28: no body but CONFIGURE's sees CFG0, and SOFT_RESET clears it. -/
theorem onlyConfigureReadsCfg0 : Obligations.OnlyConfigureReadsCfg0 := by
  intro i s t c hi h
  by_cases hr : i = .softReset
  · subst hr
    cases h
    rfl
  · have hb := bodyOf_ignores_cfg0 c hi hr
    rw [exec_eq_run hi] at h ⊢
    rw [if_neg hr]
    cases hn : needsConfig i <;> rw [hn] at h
    · exact runAlways_ignores (withCfg0_inert c) hb h
    · exact runConfigured_ignores (withCfg0_inert c) hb h

/-! ### DP while CONFIGURED = 0 -/

/-- The state with DP replaced. -/
def withDp (d : DerivedParams) (s : State) : State := { s with store := { s.store with dp := d } }

theorem withDp_inert (d : DerivedParams) : Inert (withDp d) :=
  ⟨fun _ => rfl, fun _ _ => rfl, fun _ => rfl, fun _ => rfl⟩

theorem crcBody_ignores_dp (d : DerivedParams) : Ignores crcBody (withDp d) :=
  ignores_of crcBody_ok crcBody_error
    (by rintro s _ ⟨hn, bs, hr, rfl⟩; exact ⟨hn, bs, hr, rfl⟩) (fun _ _ h => h)

/-- A command that is neither CONFIGURE nor SOFT_RESET leaves the configuration (20_memory.md R96). -/
theorem exec_keeps_configuration {i : Instr} {s t : State} (hc : i ≠ .configure) (hr : i ≠ .softReset)
    (h : exec i s = .next t) : t.store = s.store ∧ t.actCfg = s.actCfg ∧ t.configured = s.configured := by
  rcases exec_cases i s with ⟨u, hu, hx⟩ | ⟨e, -, hx⟩ | ⟨-, -, hx⟩ <;> cases hx.symm.trans h
  · rw [(bodyOf_isData hc hr hu).frame]
    exact ⟨rfl, rfl, rfl⟩
  · rw [failedState_of_ne hc]
    exact ⟨rfl, rfl, rfl⟩
  · exact ⟨rfl, rfl, rfl⟩

theorem execConfigure_of_none {s : State} (h : failedCheck s.params s.cfg0 = none) :
    execConfigure s = .next (finish (commitConfig s)) := by
  simp [execConfigure, h]

theorem execConfigure_of_some {s : State} {n : Nat} (h : failedCheck s.params s.cfg0 = some n) :
    execConfigure s = .next (raise (.config n) { s with configured := false }) := by
  simp [execConfigure, h]

/-- Of the commands that run while CONFIGURED = 0, NOP, CLEAR and CRC_APPEND do not see DP. -/
theorem bodyOf_ignores_dp {i : Instr} (d : DerivedParams) (hc : i ≠ .configure) (hr : i ≠ .softReset)
    (hn : needsConfig i = false) : Ignores (bodyOf i) (withDp d) := by
  cases i with
  | configure => exact absurd rfl hc
  | softReset => exact absurd rfl hr
  | nop | clear => exact fun _ => rfl
  | crcAppend => exact crcBody_ignores_dp d
  | _ => cases hn

/-- While CONFIGURED = 0 a command either replaces DP or leaves it, and CONFIGURED, as they were. -/
theorem exec_withDp {i : Instr} {s t : State} (d : DerivedParams) (hs : s.configured = false)
    (h : exec i s = .next t) :
    exec i (withDp d s) = .next t ∨ t.configured = false ∧ exec i (withDp d s) = .next (withDp d t) := by
  by_cases hc : i = .configure
  · subst hc
    rcases execConfigure_cases s with ⟨hf, hx⟩ | ⟨n, hf, hx⟩ <;> cases hx.symm.trans h
    · exact .inl (execConfigure_of_none (s := withDp d s) hf)
    · exact .inr ⟨rfl, execConfigure_of_some (s := withDp d s) hf⟩
  by_cases hr : i = .softReset
  · subst hr
    cases h
    exact .inl rfl
  refine .inr ⟨(exec_keeps_configuration hc hr h).2.2.trans hs, ?_⟩
  rw [exec_eq_run hc] at h ⊢
  cases hn : needsConfig i <;> rw [hn] at h
  · exact runAlways_ignores (withDp_inert d) (bodyOf_ignores_dp d hc hr hn) h
  · rw [if_pos rfl, runConfigured_of_not hs] at h
    cases h
    exact runConfigured_of_not (s := withDp d s) hs

/-- Settles O29: a command that replaces DP ends in the same state, and any other leaves CONFIGURED at 0. -/
theorem noCommandReadsDpUnconfigured : Obligations.NoCommandReadsDpUnconfigured := by
  intro i s t d hs h
  rcases exec_withDp d hs h with hx | ⟨hc, hx⟩
  · exact ⟨t, hx, rfl, fun _ => rfl⟩
  · exact ⟨_, hx, rfl, fun h1 => absurd (hc.symm.trans h1) (by decide)⟩

/-! ### Host accesses (20_memory.md R81, 60_exceptions.md R339) -/

theorem admitted_of_aligned {a : Nat} (op : BusOp) (ha : a % 4 = 0) (hlt : a < 2 ^ 20) :
    (Access.mk op a .w32).admitted = true := by
  simp only [Access.admitted, Access.aligned, Access.wide32, Access.inSpace, ha, hlt, BEq.rfl, decide_true,
    Bool.and_self]

theorem hostReads_of_allowed {s : State} {a : Nat} (ha : a % 4 = 0) (hlt : a < 2 ^ 20)
    (hb : s.busy = false ∨ allowedWhileBusy (targetOf a) = true) : HostReads s a (hostRead s (targetOf a)) := by
  rcases hb with hb | hb <;> simp [HostReads, hostAccess, admitted_of_aligned _ ha hlt, hb]

theorem hostWrites_of_allowed {s : State} {a : Nat} (v : Word) (ha : a % 4 = 0) (hlt : a < 2 ^ 20)
    (hb : s.busy = false ∨ allowedWhileBusy (targetOf a) = true) :
    HostWrites s a v (writeTarget s v (targetOf a)) := by
  rcases hb with hb | hb <;> simp [HostWrites, hostAccess, admitted_of_aligned _ ha hlt, hb]

/-- A read changes `readData` alone, unless it is a STATUS read of a busy core (20_memory.md R89). -/
theorem readsWord_of_allowed {s : State} {a : Nat} {v : Word} (ha : a % 4 = 0) (hlt : a < 2 ^ 20)
    (hb : s.busy = false ∨ targetOf a = .ctrl) (hv : readTarget s (targetOf a) = v) : ReadsWord s a v := by
  have hr := hostReads_of_allowed (s := s) ha hlt (hb.imp_right fun h => by rw [h]; rfl)
  have hd : hostRead s (targetOf a) = { s with readData := v } := by
    subst hv
    rcases hb with hb | hb <;> simp [hostRead, hb]
  rwa [hd] at hr

/-! ### The CTRL and STATUS words (10_state.md R32, R33) -/

@[simp] theorem getElem_bit1 (b : Bool) : (bit1 b)[0] = b := by cases b <;> rfl

/-- A register of k bits reads back the low k bits of the word written to it. -/
theorem setWidth_setWidth_eq_and (v : Word) {k : Nat} (hk : k ≤ 32) :
    (v.setWidth k).setWidth 32 = v &&& BitVec.ofNat 32 (2 ^ k - 1) := by
  apply BitVec.eq_of_toNat_eq
  have h1 : 2 ^ k ≤ 2 ^ 32 := Nat.pow_le_pow_right (by decide) hk
  have h2 : 0 < 2 ^ k := Nat.two_pow_pos k
  rw [BitVec.toNat_and, BitVec.toNat_ofNat, Nat.mod_eq_of_lt (by omega : 2 ^ k - 1 < 2 ^ 32),
    Nat.and_two_pow_sub_one_eq_mod, BitVec.toNat_setWidth, BitVec.toNat_setWidth]
  exact Nat.mod_eq_of_lt ((Nat.mod_lt _ h2).trans_le h1)

theorem ctrlWord_after_write (s : State) (v : Word) : ctrlWord (writeTarget s v .ctrl) = v &&& 0x00000003#32 := by
  refine Eq.trans (BitVec.eq_of_getLsbD_eq fun i hi => ?_) (setWidth_setWidth_eq_and v (k := 2) (by decide))
  simp only [ctrlWord, writeTarget, BitVec.getLsbD_append, BitVec.getLsbD_setWidth]
  match i with
  | 0 | 1 => simp
  | j + 2 => simp

/-- The codes of 47_assembler.md R300 end at 10. -/
theorem stageCodes_le (inter : Bool) (i : Instr) : ∀ c ∈ stageCodes inter i, c.toNat ≤ 10 := by
  cases inter <;> cases i <;> decide

theorem runningCodes_le (s : State) : ∀ c ∈ runningCodes s, c.toNat ≤ 10 := by
  unfold runningCodes
  split
  · exact stageCodes_le _ _
  · decide

/-- No reserved STATE code is ever read (10_state.md R37). -/
theorem stageField_le (s : State) : (stageField s).toNat ≤ 10 := by
  unfold stageField
  split
  · rw [List.getD_eq_getElem?_getD]
    cases h : (runningCodes s)[Config.freeStage s.draws % (runningCodes s).length]? with
    | none => decide
    | some c => exact runningCodes_le s c (List.mem_of_getElem? h)
  · decide

theorem stageField_idle {s : State} (h : s.busy = false) : stageField s = 0 := by simp [stageField, h]

theorem statusWord_state (s : State) : (statusWord s).extractLsb' 16 4 = stageField s := by
  unfold statusWord
  simp (disch := decide) only [BitVec.extractLsb'_append_eq_of_le, BitVec.extractLsb'_append_eq_of_add_le]
  simp

theorem statusWord_errCode_and_zeros (s : State) :
    (statusWord s).extractLsb' 4 4 = 0#4 ∧ (statusWord s).extractLsb' 8 8 = s.errCode ∧
      (statusWord s).extractLsb' 20 12 = 0#12 := by
  unfold statusWord
  simp (disch := decide) only [BitVec.extractLsb'_append_eq_of_le, BitVec.extractLsb'_append_eq_of_add_le]
  simp

theorem statusWord_flags (s : State) :
    (statusWord s).getLsbD 0 = s.busy ∧ (statusWord s).getLsbD 1 = s.done ∧ (statusWord s).getLsbD 2 = s.err ∧
      (statusWord s).getLsbD 3 = s.configured := by
  simp only [statusWord, BitVec.getLsbD_append]
  simp

/-- Settles O16: the fields stand in the STATUS word where it concatenates them, and STATE is a code of R300. -/
theorem statusWordLayout : Obligations.StatusWordLayout := by
  intro s
  have hread : HostReads s 0x00004 (hostRead s .status) := hostReads_of_allowed (by decide) (by decide) (.inr rfl)
  obtain ⟨hbusy, hdone, herr, hconfigured⟩ := statusWord_flags s
  obtain ⟨hlow, hcode, hhigh⟩ := statusWord_errCode_and_zeros s
  refine ⟨?_, hbusy, hdone, herr, hconfigured, hlow, hcode, hhigh, ?_, ?_⟩
  · simpa [hostRead, readTarget] using hread
  · exact fun hb => (statusWord_state s).trans (stageField_idle hb)
  · exact statusWord_state s ▸ stageField_le s

/-! ### The registers the host writes (10_state.md R32, R39, R41, R42) -/

/-- Settles O17: each register keeps the low bits of the word written to it. -/
theorem hostRegistersKeepTheirBits : Obligations.HostRegistersKeepTheirBits := by
  intro s v
  refine ⟨⟨_, hostWrites_of_allowed v (by decide) (by decide) (.inr rfl), rfl,
    readsWord_of_allowed (by decide) (by decide) (.inr rfl) (ctrlWord_after_write s v)⟩, fun hb => ⟨?_, ?_, ?_⟩⟩ <;>
  refine ⟨_, hostWrites_of_allowed v (by decide) (by decide) (.inl hb), rfl,
    readsWord_of_allowed (by decide) (by decide) (.inl hb) ?_⟩
  · exact setWidth_setWidth_eq_and v (k := 15) (by decide)
  · exact setWidth_setWidth_eq_and v (k := 17) (by decide)
  · exact setWidth_setWidth_eq_and v (k := 16) (by decide)

/-! ### The read-only registers (10_state.md R40, R43 to R47, R49) -/

/-- A register of n bits that ignores writes reads its value, zero-extended. -/
theorem readOnly_register {s : State} {a n : Nat} {v : Word} {x : BitVec n} (hb : s.busy = false) (ha : a % 4 = 0)
    (hlt : a < 2 ^ 20) (hr : readTarget s (targetOf a) = x.setWidth 32) (hw : writeTarget s v (targetOf a) = s) :
    ReadsWord s a (BitVec.ofNat 32 x.toNat) ∧ HostWrites s a v s := by
  have hwrite := hostWrites_of_allowed v ha hlt (.inl hb)
  rw [hw] at hwrite
  exact ⟨readsWord_of_allowed ha hlt (.inl hb) (hr.trans (BitVec.ofNat_toNat _ _).symm), hwrite⟩

/-- Settles O25: every register of the list is a read-only target; CRC_VALUE and ERR_INFO are full words. -/
theorem readOnlyRegistersReadBack : Obligations.ReadOnlyRegistersReadBack := by
  intro s v hb
  refine ⟨?_, readsWord_of_allowed (by decide) (by decide) (.inl hb) rfl⟩
  simp only [List.forall_mem_cons]
  refine ⟨?_, ?_, ?_, ?crc, ?_, ?_, ?_, ?_, ?_, ?_, ?_, ?_, ?_, ?_, ?_, ?errInfo, nofun⟩ <;>
    refine readOnly_register hb (by decide) (by decide) ?_ rfl
  case crc | errInfo => exact (BitVec.setWidth_eq _).symm
  all_goals rfl

end Sys2Proof.Proofs

/-! The memory family (20_memory.md): which accesses are refused, what the windows and the reserved addresses answer, that
a read has no side effect, and who writes the configuration. -/

namespace Sys2Proof.Proofs

open Sys2Proof Sys2Proof.Machine Sys2Proof.Claims

/-! ### Refused accesses (20_memory.md R82, 60_exceptions.md R340) -/

theorem admitted_eq_false_iff (a : Access) :
    a.admitted = false ↔ a.addr % 4 ≠ 0 ∨ a.width ≠ .w32 ∨ 2 ^ 20 ≤ a.addr := by
  simp only [Access.admitted, Access.aligned, Access.wide32, Access.inSpace, Bool.and_eq_false_iff, beq_eq_false_iff_ne,
    decide_eq_false_iff_not, Nat.not_lt, or_assoc]

theorem hostAccess_refused_iff (a : Access) (s : State) :
    hostAccess a s = .refused .accessNotAdmitted ↔ a.admitted = false := by
  rcases hostAccess_cases a s with ⟨ha, h⟩ | ⟨ha, -, -, h⟩ | ⟨ha, -, ⟨-, h⟩ | ⟨v, -, h⟩⟩ <;> simp [ha, h]

/-- Settles O8: an access is refused exactly when it is not admitted. -/
theorem malformedAccessesAreRefused : Obligations.MalformedAccessesAreRefused := fun s a =>
  (hostAccess_refused_iff a s).trans (admitted_eq_false_iff a)

/-! ### What answers in the windows and between them (10_state.md R31) -/

/-- The first address of a record's field window (20_memory.md R87). -/
def fieldBase : Rec → Nat
  | .pre => 0x01000
  | .post => 0x02000

theorem targetOf_field (r : Rec) {i : Nat} (hi : i < 1024) : targetOf (fieldBase r + 4 * i) = .field r i := by
  cases r <;> unfold fieldBase <;>
    simp (disch := omega) only [targetOf, if_neg, if_pos, Nat.add_sub_cancel_left, Nat.mul_div_cancel_left]

theorem targetOf_fbElems {w : Nat} (hw : w < 16200) : targetOf (0x10000 + 4 * w) = .fbElems w := by
  simp (disch := omega) only [targetOf, if_neg, if_pos, Nat.add_sub_cancel_left, Nat.mul_div_cancel_left]

theorem targetOf_fbPacked {w : Nat} (hw : w < 2025) : targetOf (0x20000 + 4 * w) = .fbPacked w := by
  simp (disch := omega) only [targetOf, if_neg, if_pos, Nat.add_sub_cancel_left, Nat.mul_div_cancel_left]

theorem targetOf_ob {i : Nat} (hi : i < 32400) : targetOf (0x40000 + 4 * i) = .ob i := by
  simp (disch := omega) only [targetOf, if_neg, if_pos, Nat.add_sub_cancel_left, Nat.mul_div_cancel_left]

/-- No other aligned address has a target (20_memory.md R90). -/
theorem targetOf_reserved {a : Nat} (ha : a % 4 = 0)
    (h : (0x00054 < a ∧ a < 0x00060) ∨ (0x00074 < a ∧ a < 0x01000) ∨ (0x02FFC < a ∧ a < 0x10000) ∨
      (0x10000 + 4 * 16200 ≤ a ∧ a < 0x20000) ∨ (0x20000 + 4 * 2025 ≤ a ∧ a < 0x40000) ∨ 0x40000 + 4 * 32400 ≤ a) :
    targetOf a = .reserved := by
  simp (disch := omega) only [targetOf, if_neg]

theorem targetOf_ne_status {a : Nat} (h : a ≠ 0x00004) : targetOf a ≠ .status := by
  rw [targetOf, if_neg h]
  repeat refine iteInduction (motive := (· ≠ Target.status)) (fun _ => nofun) (fun _ => ?_)
  nofun

/-- While BUSY = 0 the host reads and writes whatever answers at the address (20_memory.md R81). -/
theorem idle_readsWord_hostWrites {s : State} {a : Nat} {x : Target} (v : Word) (hb : s.busy = false) (ha : a % 4 = 0)
    (hlt : a < 2 ^ 20) (hx : targetOf a = x) : ReadsWord s a (readTarget s x) ∧ HostWrites s a v (writeTarget s v x) := by
  subst hx
  exact ⟨readsWord_of_allowed ha hlt (.inl hb) rfl, hostWrites_of_allowed v ha hlt (.inl hb)⟩

/-- Settles O22: where nothing else answers, the reserved target does. -/
theorem reservedAddressesReadZero : Obligations.ReservedAddressesReadZero := fun _ _ v hb ha hlt h =>
  idle_readsWord_hostWrites v hb ha hlt (targetOf_reserved ha h)

/-- Settles O21: the entries below 32400 are read-only, and the words above are reserved. -/
theorem outputWindowIsReadOnly : Obligations.OutputWindowIsReadOnly := by
  intro s i v hb hi
  by_cases h : i < 32400
  · rw [if_pos h]
    exact idle_readsWord_hostWrites v hb (by omega) (by omega) (targetOf_ob h)
  · rw [if_neg h]
    exact reservedAddressesReadZero s _ v hb (by omega) (by omega) (by omega)

/-! ### The field windows (20_memory.md R87) -/

theorem read_write_single (m : WordRam) (i : Nat) (v : Word) (j : Nat) :
    (m.write i [v]).read j = if j = i then v else m.read j := by
  rw [WordRam.read_write]
  by_cases h : j = i
  · simp [h]
  · rw [if_neg h, if_neg (by simp only [List.length_singleton]; omega)]

/-- Settles O18: a write of a slot replaces that entry of that record's RAM. -/
theorem fieldWindowsStoreWholeWords : Obligations.FieldWindowsStoreWholeWords := by
  intro s r i v hb hi
  change ReadsWord s (fieldBase r + 4 * i) _ ∧ ∃ t, HostWrites s (fieldBase r + 4 * i) v t ∧ _
  have hrange : (fieldBase r + 4 * i) % 4 = 0 ∧ fieldBase r + 4 * i < 2 ^ 20 := by
    cases r <;> simp only [fieldBase] <;> omega
  obtain ⟨hread, hwrite⟩ := idle_readsWord_hostWrites v hb hrange.1 hrange.2 (targetOf_field r hi)
  refine ⟨hread, _, hwrite, rfl, fun q j => ?_⟩
  simp only [writeTarget, PerRec.get_set]
  by_cases hq : q = r
  · simp [hq, read_write_single]
  · simp [hq]

/-! ### The element window (20_memory.md R84) -/

theorem elemsWord_byte (m : Memory) (w : Nat) {k : Nat} (hk : k < 4) :
    (elemsWord m w).extractLsb' (24 - 8 * k) 8 = m.value (4 * w + k) := by
  unfold elemsWord
  match k, hk with
  | 0, _ | 1, _ | 2, _ | 3, _ =>
    simp (disch := decide) only [BitVec.extractLsb'_append_eq_of_le, BitVec.extractLsb'_append_eq_of_add_le]
    simp

theorem elem_write_inside (m : Memory) {base j : Nat} {vs : List Byte} (hj : j < vs.length) (hk : base + j < nMax) :
    (m.write base vs).elem (base + j) = some vs[j] := by
  rw [Memory.elem_write, if_pos (by omega), if_pos hk, Nat.add_sub_cancel_left, List.getElem?_eq_getElem hj]

/-- Settles O19: each byte of the word is one element, most significant byte first; the words above are reserved. -/
theorem elementWindowReadsAndWrites : Obligations.ElementWindowReadsAndWrites := by
  intro s w v hb
  refine ⟨fun hw => ?_, fun h1 h2 => reservedAddressesReadZero s _ v hb (by omega) (by omega) (by omega)⟩
  obtain ⟨hread, hwrite⟩ := idle_readsWord_hostWrites v hb (by omega) (by omega) (targetOf_fbElems hw)
  refine ⟨⟨_, hread, fun k hk => elemsWord_byte s.fb w hk⟩, _, hwrite, rfl, fun k hk => ?_,
    fun j hj => Memory.elem_write_outside _ hj⟩
  refine (elem_write_inside s.fb hk (by unfold nMax; omega)).trans (congrArg some ?_)
  match k, hk with
  | 0, _ | 1, _ | 2, _ | 3, _ => rfl

/-! ### The packed window (20_memory.md R85) -/

theorem bitsToNat_concat (bs : List Bool) (b : Bool) : bitsToNat (bs ++ [b]) = Nat.bit b (bitsToNat bs) := by
  simp [bitsToNat, Nat.bit_val]

/-- The last bit of a sequence is bit 0 of its number (46_mapper.md R289). -/
theorem testBit_bitsToNat (bs : List Bool) (j : Nat) : (bitsToNat bs).testBit j = bs.reverse.getD j false := by
  induction bs using List.reverseRecOn generalizing j with
  | nil => simp [bitsToNat]
  | append_singleton bs b ih =>
    rw [bitsToNat_concat, List.reverse_concat]
    cases j with
    | zero => simp
    | succ j => simpa [Nat.testBit_bit_succ] using ih j

theorem packedWord_bit (m : Memory) (w : Nat) {k : Nat} (hk : k < 32) :
    (packedWord m w).getLsbD (31 - k) = (m.value (32 * w + k)).getLsbD 0 := by
  have h1 : 31 - k < 32 := by omega
  have h2 : 31 - (31 - k) = k := by omega
  rw [packedWord, BitVec.getLsbD_ofNat, testBit_bitsToNat]
  simp [h1, h2]

theorem getElem_msbBits {n w j : Nat} (v : BitVec w) (hj : j < (msbBits n v).length) :
    (msbBits n v)[j] = v.getLsbD (n - 1 - j) := by
  simp [msbBits]

/-- Settles O20: each bit of the word is one element, most significant bit first; the words above are reserved. -/
theorem packedWindowReadsAndWrites : Obligations.PackedWindowReadsAndWrites := by
  intro s w v hb
  refine ⟨fun hw => ?_, fun h1 h2 => reservedAddressesReadZero s _ v hb (by omega) (by omega) (by omega)⟩
  obtain ⟨hread, hwrite⟩ := idle_readsWord_hostWrites v hb (by omega) (by omega) (targetOf_fbPacked hw)
  have hlen : (msbBits 32 v).length = 32 := length_msbBits 32 v
  refine ⟨⟨_, hread, fun k hk => packedWord_bit s.fb w hk⟩, _, hwrite, rfl, fun k hk => ?_,
    fun j hj => Memory.elem_writeBits_outside _ (by rwa [hlen])⟩
  refine (Memory.elem_writeBits s.fb (hk.trans_eq hlen.symm) (by unfold nMax; omega)).trans ?_
  rw [getElem_msbBits]
  rfl

/-! ### Reads (20_memory.md R89) -/

theorem hostReads_iff {s t : State} {a : Nat} :
    HostReads s a t ↔ (Access.mk .read a .w32).admitted = true ∧
      (s.busy = true → allowedWhileBusy (targetOf a) = true) ∧ t = hostRead s (targetOf a) := by
  unfold HostReads
  rcases hostAccess_cases ⟨.read, a, .w32⟩ s with ⟨ha, h⟩ | ⟨ha, hb, hw, h⟩ | ⟨ha, hw, ⟨-, h⟩ | ⟨v, ho, -⟩⟩
  · simp [h, ha]
  · simp [h, hb, show allowedWhileBusy (targetOf a) = false from hw]
  · rw [h, Host.Outcome.next.injEq, eq_comm]
    exact ⟨fun ht => ⟨ha, hw, ht⟩, fun ⟨_, _, ht⟩ => ht⟩
  · cases ho

/-- A read draws a STATE code only of STATUS while BUSY = 1 (log 6). -/
theorem hostRead_eq_of_no_draw {s : State} {x : Target} (h : s.busy = false ∨ x ≠ .status) :
    hostRead s x = { s with readData := readTarget s x } := by
  rcases h with h | h <;> simp [hostRead, h]

/-- The last word read is not part of any register or window (log 5). -/
theorem readTarget_withReadData (s : State) (d : Word) (x : Target) :
    readTarget { s with readData := d } x = readTarget s x := by
  cases x <;> rfl

theorem hostRead_twice {s : State} {x : Target} (h : s.busy = false ∨ x ≠ .status) :
    hostRead (hostRead s x) x = hostRead s x := by
  have hs := hostRead_eq_of_no_draw h
  calc hostRead (hostRead s x) x
    _ = hostRead { s with readData := readTarget s x } x := by rw [hs]
    _ = { s with readData := readTarget { s with readData := readTarget s x } x } :=
      hostRead_eq_of_no_draw (s := { s with readData := readTarget s x }) h
    _ = hostRead s x := by rw [readTarget_withReadData s (readTarget s x) x, hs]

/-- Settles O23: a read changes `readData`, which no target shows, and, of STATUS while BUSY = 1, `draws`. -/
theorem readsHaveNoSideEffect : Obligations.ReadsHaveNoSideEffect := by
  intro s t a hread
  obtain ⟨ha, hw, rfl⟩ := hostReads_iff.1 hread
  refine ⟨rfl, fun h => ?_⟩
  have hquiet : s.busy = false ∨ targetOf a ≠ .status := h.imp_right targetOf_ne_status
  refine ⟨by rw [hostRead_eq_of_no_draw hquiet], hostReads_iff.2 ⟨ha, hw, ?_⟩⟩
  exact (hostRead_twice hquiet).symm

/-! ### Who writes the configuration (20_memory.md R95, R96) -/

/-- The configuration store, ACTCFG and CONFIGURED are as before. -/
def SameConfiguration (s t : State) : Prop :=
  t.store = s.store ∧ t.actCfg = s.actCfg ∧ t.configured = s.configured

theorem writeTarget_keeps_configuration (s : State) (v : Word) (x : Target) :
    SameConfiguration s (writeTarget s v x) := by
  cases x with
  | cmd => exact ⟨issue_store v s, issue_actCfg v s, issue_configured v s⟩
  | _ => exact ⟨rfl, rfl, rfl⟩

theorem hostAccess_keeps_configuration {s t : State} {a : Access} (h : hostAccess a s = .next t) :
    SameConfiguration s t := by
  rcases hostAccess_cases a s with ⟨-, hx⟩ | ⟨-, -, -, hx⟩ | ⟨-, -, ⟨-, hx⟩ | ⟨v, -, hx⟩⟩ <;> cases hx.symm.trans h
  · exact ⟨rfl, rfl, rfl⟩
  · exact writeTarget_keeps_configuration s v _

theorem engineTurn_configuration {s t : State} (h : engineTurn s = .next t) :
    SameConfiguration s t ∨
      (s.busy = true ∧ (decode s.latch = some .configure ∨ decode s.latch = some .softReset)) := by
  rcases engineTurn_cases s with ⟨-, hx⟩ | ⟨-, -, hx⟩ | ⟨hb, i, hd, hx⟩ <;> rw [hx] at h
  · cases h; exact .inl ⟨rfl, rfl, rfl⟩
  · cases h; exact .inl ⟨rfl, rfl, rfl⟩
  · by_cases hi : i = .configure ∨ i = .softReset
    · rcases hi with rfl | rfl
      · exact .inr ⟨hb, .inl hd⟩
      · exact .inr ⟨hb, .inr hd⟩
    · exact .inl (exec_keeps_configuration (fun h => hi (.inl h)) (fun h => hi (.inr h)) h)

/-- Settles O27: a host access keeps the configuration, and of the engine's turns all but those two commands. -/
theorem onlyConfigureAndResetChangeTheConfiguration : Obligations.OnlyConfigureAndResetChangeTheConfiguration := by
  intro s t h
  unfold step at h
  cases hin : s.inputs with
  | nil =>
    rw [hin] at h
    exact (engineTurn_configuration h).imp_right fun ⟨hb, hd⟩ => .inr ⟨hb, .inl rfl, hd⟩
  | cons i rest =>
    rw [hin] at h
    cases i with
    | bus a => exact .inl (hostAccess_keeps_configuration (s := { s with inputs := rest }) h)
    | engine =>
      exact (engineTurn_configuration (s := { s with inputs := rest }) h).imp_right
        fun ⟨hb, hd⟩ => .inr ⟨hb, .inr ⟨rest, rfl⟩, hd⟩
    | reset => exact .inr (.inl ⟨rest, rfl⟩)

end Sys2Proof.Proofs

/-! The encoding family (30_encoding.md): the rows of the opcode map, the fields of a command word, the errors that a
command's body raises, and the host's write that issues a command. -/

namespace Sys2Proof.Proofs

open Sys2Proof Sys2Proof.Machine Sys2Proof.Claims

/-! ### The rows of the opcode map (30_encoding.md R112, R113) -/

theorem rowInstr_opcode_sel (i : Instr) : rowInstr i.opcode i.sel = some i := by
  cases i <;> rfl

/-- One row of the map: a command found in it has the row's OPCODE and SEL, and any other command is found below. -/
theorem opcode_sel_of_row {opcode p : BitVec 8} {sel q : BitVec 4} {i j : Instr} {rest : Option Instr}
    (hrow : j.opcode = p ∧ j.sel = q) (hrest : rest = some i → i.opcode = opcode ∧ i.sel = sel)
    (h : (if opcode = p ∧ sel = q then some j else rest) = some i) : i.opcode = opcode ∧ i.sel = sel := by
  split at h
  next hpq => cases h; exact ⟨hrow.1.trans hpq.1.symm, hrow.2.trans hpq.2.symm⟩
  next => exact hrest h

/-- The map has one row for each command, that of its OPCODE and SEL. -/
theorem rowInstr_eq_some_iff {opcode : BitVec 8} {sel : BitVec 4} {i : Instr} :
    rowInstr opcode sel = some i ↔ i.opcode = opcode ∧ i.sel = sel := by
  constructor
  · unfold rowInstr
    iterate 23 refine opcode_sel_of_row ⟨rfl, rfl⟩ ?_
    nofun
  · rintro ⟨rfl, rfl⟩
    exact rowInstr_opcode_sel i

theorem sel_lt_selCount (i : Instr) : i.sel.toNat < selCount i.opcode := by
  cases i <;> decide

/-- One OPCODE of R113: its `n` SEL values have their rows, and any other OPCODE is counted below. -/
theorem rowInstr_isSome_of_count {opcode p : BitVec 8} {sel : BitVec 4} {n rest : Nat}
    (hrow : ∀ k < n, (rowInstr p (BitVec.ofNat 4 k)).isSome) (hrest : sel.toNat < rest → (rowInstr opcode sel).isSome)
    (h : sel.toNat < if opcode = p then n else rest) : (rowInstr opcode sel).isSome := by
  split at h
  next hp => simpa [hp] using hrow _ h
  next => exact hrest h

/-- R112 and R113 agree: a pair is a row exactly when the SEL is one of those its OPCODE has. -/
theorem rowInstr_isSome_iff {opcode : BitVec 8} {sel : BitVec 4} :
    (rowInstr opcode sel).isSome ↔ sel.toNat < selCount opcode := by
  constructor
  · intro h
    obtain ⟨i, hi⟩ := Option.isSome_iff_exists.1 h
    obtain ⟨rfl, rfl⟩ := rowInstr_eq_some_iff.1 hi
    exact sel_lt_selCount i
  · unfold selCount
    iterate 14 refine rowInstr_isSome_of_count (by decide) ?_
    nofun

/-! ### The fields of a word (30_encoding.md R110) -/

@[simp] theorem ofWord_toWord (f : Fields) : Fields.ofWord f.toWord = f := by
  have hopcode : f.toWord.extractLsb' 24 8 = f.opcode := by
    rw [Fields.toWord, BitVec.extractLsb'_append_eq_of_le (by decide)]
    exact BitVec.extractLsb'_append_eq_left
  have hsel : f.toWord.extractLsb' 20 4 = f.sel := by
    rw [Fields.toWord, BitVec.extractLsb'_append_eq_of_le (by decide)]
    exact BitVec.extractLsb'_append_eq_right
  have hzero : f.toWord.extractLsb' 0 20 = f.zero := BitVec.extractLsb'_append_eq_right
  rw [Fields.ofWord, hopcode, hsel, hzero]

@[simp] theorem toWord_ofWord (w : Word) : (Fields.ofWord w).toWord = w := by
  have hhigh : w.extractLsb' 24 8 ++ w.extractLsb' 20 4 = w.extractLsb' 20 12 :=
    BitVec.extractLsb'_append_extractLsb'_eq_extractLsb' rfl
  have hall : w.extractLsb' 20 12 ++ w.extractLsb' 0 20 = w.extractLsb' 0 32 :=
    BitVec.extractLsb'_append_extractLsb'_eq_extractLsb' rfl
  exact (congrArg (· ++ w.extractLsb' 0 20) hhigh).trans (hall.trans BitVec.extractLsb'_eq_self)

/-- A word's fields are `f` exactly when it is the word of `f`. -/
theorem ofWord_eq_iff {w : Word} {f : Fields} : Fields.ofWord w = f ↔ f.toWord = w :=
  ⟨fun h => h ▸ toWord_ofWord w, fun h => h ▸ ofWord_toWord f⟩

/-! ### The decoder and the encoder -/

theorem decode_eq_some_iff {w : Word} {i : Instr} :
    decode w = some i ↔ Fields.ofWord w = { opcode := i.opcode, sel := i.sel, zero := 0#20 } := by
  unfold decode
  obtain ⟨opcode, sel, zero⟩ := Fields.ofWord w
  simp only [Fields.zeroOk, Option.ite_none_right_eq_some, beq_iff_eq, rowInstr_eq_some_iff, Fields.mk.injEq]
  tauto

/-- The decoder answers a command exactly for the legal words (30_encoding.md R111, R114). -/
theorem decode_isSome_iff (w : Word) : (decode w).isSome ↔ (Fields.ofWord w).legal = true := by
  have hrow := @rowInstr_isSome_iff (Fields.ofWord w).opcode (Fields.ofWord w).sel
  cases hz : (Fields.ofWord w).zeroOk with
  | false => simp [decode, Fields.legal, hz]
  | true => simpa [decode, Fields.legal, Fields.opcodeOk, Fields.selOk, hz, hrow] using Nat.zero_lt_of_lt

theorem legal_iff (f : Fields) : f.legal = true ↔ f.opcodeOk = true ∧ f.selOk = true ∧ f.zero = 0#20 := by
  simp [Fields.legal, Fields.zeroOk, and_assoc]

theorem encode_eq_tableWord (i : Instr) : encode i = tableWord i := by
  cases i <;> rfl

/-- Settles O1: a word decodes to a command exactly when its fields are the command's, and then it is their word. -/
theorem decodeAndEncodeAgreeWithTheTable : Obligations.DecodeAndEncodeAgreeWithTheTable := fun _ i =>
  ⟨decode_eq_some_iff.trans ofWord_eq_iff, encode_eq_tableWord i⟩

/-! ### The engine's turn (30_encoding.md R114) -/

theorem engineTurn_of_decode_none {s : State} (hb : s.busy = true) (hd : decode s.latch = none) :
    engineTurn s = .next (raise (.illegal s.latch) s) := by
  simp [engineTurn, engineStep, hb, hd]

theorem engineTurn_of_decode_some {s : State} {i : Instr} (hb : s.busy = true) (hd : decode s.latch = some i) :
    engineTurn s = exec i s := by
  simp [engineTurn, engineStep, hb, hd]

/-- Settles O2: the decoder answers none exactly when one of R114's three conditions holds. -/
theorem illegalWordsRaiseErrIllegal : Obligations.IllegalWordsRaiseErrIllegal := by
  refine fun s hb => ⟨fun hbad => ?_, fun hopcode hsel hzero => ?_⟩
  · have hillegal : ¬ (Fields.ofWord s.latch).legal = true := by
      rw [legal_iff]
      rintro ⟨hopcode, hsel, hzero⟩
      simp [hopcode, hsel, hzero] at hbad
    rw [← decode_isSome_iff, Option.not_isSome_iff_eq_none] at hillegal
    exact engineTurn_of_decode_none hb hillegal
  · obtain ⟨i, hi⟩ := Option.isSome_iff_exists.1 ((decode_isSome_iff _).2 ((legal_iff _).2 ⟨hopcode, hsel, hzero⟩))
    exact ⟨i, hi, engineTurn_of_decode_some hb hi⟩

/-! ### The errors of a command's body (60_exceptions.md R331) -/

/-- An error that a command's body raises: not ERR_ILLEGAL, and not the ERR_NOTCFG of a command that never ran its
body. -/
def IsBodyError : CmdError → Prop
  | .illegal _ | .notCfg _ => False
  | _ => True

theorem IsBodyError.code_ge {e : CmdError} (h : IsBodyError e) : 3 ≤ e.code.toNat := by
  cases e with
  | illegal | notCfg => exact h.elim
  | _ => simp [CmdError.code]

/-- Every error of the body is one of its own. -/
def RaisesBodyErrors (b : Body) : Prop := ∀ ⦃s : State⦄ ⦃e : CmdError⦄, b s = .error e → IsBodyError e

theorem RaisesBodyErrors.andThen {f g : Body} (hf : RaisesBodyErrors f) (hg : RaisesBodyErrors g) :
    RaisesBodyErrors (andThen f g) := by
  intro s e h
  rcases andThen_error.1 h with h | ⟨t, -, h⟩
  · exact hf h
  · exact hg h

/-- The checked read raises ERR_UNDEF or ERR_DATA, from any buffer (00_scope.md R12). -/
theorem readBitsFrom_isBodyError {m : Memory} {k n : Nat} {e : CmdError} (h : readBitsFrom m k n = .error e) :
    IsBodyError e := by
  induction m, k, n using readBitsFrom.induct with
  | case1 => simp [readBitsFrom] at h
  | case2 => cases h; trivial
  | case3 i v rest k n hlt ih => exact ih (by simpa [readBitsFrom, hlt] using h)
  | case4 v rest k n e' hbit =>
    obtain ⟨rfl, -⟩ := bitOf_eq_error hbit
    have he : CmdError.data k = e := by simpa [readBitsFrom, hbit] using h
    exact he ▸ trivial
  | case5 v rest k n b hbit e' hrest _ ih => exact ih (by simpa [readBitsFrom, hbit, hrest] using h)
  | case6 v rest k n b hbit bs hrest => simp [readBitsFrom, hbit, hrest] at h
  | case7 i v rest k n hlt hne =>
    have he : CmdError.undef k = e := by simpa [readBitsFrom, hlt, hne] using h
    exact he ▸ trivial

/-- The shape of most bodies: ERR_LEN, or the error of the checked read. -/
theorem isBodyError_of_len_or_read {p q : Prop} {m : Memory} {n k : Nat} {e : CmdError}
    (h : (p ∧ e = .len n) ∨ (q ∧ readBits m k = .error e)) : IsBodyError e := by
  rcases h with ⟨-, rfl⟩ | ⟨-, h⟩
  · trivial
  · exact readBitsFrom_isBodyError h

theorem configureBody_raises : RaisesBodyErrors configureBody := by
  intro s e h
  unfold configureBody at h
  split at h <;> cases h
  trivial

theorem packBody_raises (r : Rec) : RaisesBodyErrors (packBody r) := by
  intro s e h
  obtain ⟨-, rfl⟩ := packBody_error.1 h
  trivial

theorem crcBody_raises : RaisesBodyErrors crcBody := fun _ _ h => isBodyError_of_len_or_read (crcBody_error.1 h)

theorem padBody_raises (r : Rec) : RaisesBodyErrors (padBody r) := by
  intro s e h
  obtain ⟨-, rfl⟩ := padBody_error.1 h
  trivial

theorem bchBody_raises (r : Rec) : RaisesBodyErrors (bchBody r) :=
  fun _ _ h => isBodyError_of_len_or_read (bchBody_error.1 h)

theorem ldpcBody_raises (r : Rec) : RaisesBodyErrors (ldpcBody r) :=
  fun _ _ h => isBodyError_of_len_or_read (ldpcBody_error.1 h)

theorem punctureBody_raises (r : Rec) : RaisesBodyErrors (punctureBody r) :=
  fun _ _ h => isBodyError_of_len_or_read (punctureBody_error.1 h)

theorem interleavePayBody_raises : RaisesBodyErrors interleavePayBody :=
  fun _ _ h => isBodyError_of_len_or_read (interleavePayBody_error.1 h)

theorem interleavePostBody_raises : RaisesBodyErrors interleavePostBody := by
  intro s e h
  rcases interleavePostBody_error.1 h with ⟨-, rfl⟩ | ⟨-, h⟩
  · trivial
  · exact isBodyError_of_len_or_read h

theorem mapBody_raises (sel : MapSel) : RaisesBodyErrors (mapBody sel) := by
  intro s e h
  rcases mapBody_error.1 h with ⟨-, rfl⟩ | ⟨-, -, hread⟩
  · trivial
  · exact readBitsFrom_isBodyError hread

theorem consumeFrame_raises : RaisesBodyErrors consumeFrame := by
  intro s e h
  cases h

theorem interleaveStage_raises (r : Rec) : RaisesBodyErrors (interleaveStage r) := by
  intro s e h
  cases r with
  | pre => cases h
  | post =>
    simp only [interleaveStage] at h
    split at h
    · exact interleavePostBody_raises h
    · cases h

theorem assembleStages_raises (r : Rec) : RaisesBodyErrors (assembleStages r) :=
  (packBody_raises r).andThen <| crcBody_raises.andThen <| (padBody_raises r).andThen <|
    (bchBody_raises r).andThen <| (ldpcBody_raises r).andThen <| (punctureBody_raises r).andThen <|
      (interleaveStage_raises r).andThen (mapBody_raises _)

theorem assembleBody_raises (r : Rec) : RaisesBodyErrors (assembleBody r) := by
  intro s e h
  rcases assembleBody_error.1 h with ⟨-, rfl⟩ | ⟨-, h⟩
  · trivial
  · exact assembleStages_raises r h

theorem payloadStages_raises : RaisesBodyErrors payloadStages :=
  interleavePayBody_raises.andThen ((mapBody_raises _).andThen consumeFrame_raises)

theorem payloadBody_raises : RaisesBodyErrors payloadBody := by
  intro s e h
  rcases payloadBody_error.1 h with ⟨-, rfl⟩ | ⟨-, h | ⟨bs, -, h⟩⟩
  · trivial
  · exact readBitsFrom_isBodyError h
  · exact payloadStages_raises h

theorem bodyOf_raises (i : Instr) : RaisesBodyErrors (bodyOf i) := by
  cases i with
  | nop | softReset => intro s e h; cases h
  | configure => exact configureBody_raises
  | clear => exact consumeFrame_raises
  | packPre | packPost => exact packBody_raises _
  | crcAppend => exact crcBody_raises
  | padPre | padPost => exact padBody_raises _
  | bchEncodePre | bchEncodePost => exact bchBody_raises _
  | ldpcEncodePre | ldpcEncodePost => exact ldpcBody_raises _
  | puncturePre | puncturePost => exact punctureBody_raises _
  | interleavePay => exact interleavePayBody_raises
  | interleavePost => exact interleavePostBody_raises
  | mapPay | mapPre | mapPost => exact mapBody_raises _
  | assemblePre | assemblePost => exact assembleBody_raises _
  | payload => exact payloadBody_raises

/-! ### The cfg column (30_encoding.md R112, 40_control.md R141) -/

theorem exec_of_not_configured {i : Instr} {s : State} (hn : needsConfig i = true) (hc : s.configured = false) :
    exec i s = .next (raise (.notCfg s.latch) s) := by
  have hi : i ≠ .configure := by rintro rfl; cases hn
  rw [exec_eq_run hi, if_pos hn, runConfigured_of_not hc]

/-- Settles O13: a command that runs its body ends in success or in one of the body's own errors. -/
theorem configurationIsRequiredWhereTheTableSays : Obligations.ConfigurationIsRequiredWhereTheTableSays := by
  refine fun i s => ⟨exec_of_not_configured, fun hrun hs t ht herr hcode => ?_⟩
  rcases exec_cases i s with ⟨u, hu, hx⟩ | ⟨e, he, hx⟩ | ⟨hn, hc, -⟩
  · cases hx.symm.trans ht
    simp [bodyOf_keeps_err hs hu] at herr
  · cases hx.symm.trans ht
    have hge : 3 ≤ e.code.toNat := (bodyOf_raises i he).code_ge
    rw [show e.code = 0x02 from hcode] at hge
    exact absurd hge (by decide)
  · simp [hn, hc] at hrun

/-! ### The encoding examples (30_encoding.md R122) -/

/-- A command word is latched while ERR = 0 (40_control.md R140). -/
theorem issue_of_no_error {s : State} (he : s.err = false) (w : Word) :
    issue w s = { s with latch := w, done := false, busy := true } := by
  simp [issue, he]

/-- Settles O3: the examples decoded, the illegal one in the engine's turn, and the write of the legal one to CMD. -/
theorem encodingExamplesDecode : Obligations.EncodingExamplesDecode := by
  have hbad : decode 0x17300000#32 = none := by decide
  refine ⟨by decide, by decide, hbad, by decide, fun s hb hl => ?_, fun s hb he => ?_⟩
  · have hturn := engineTurn_of_decode_none hb (hl ▸ hbad)
    rwa [hl] at hturn
  · have hwrite := hostWrites_of_allowed (s := s) (a := 0x00008) 0x17200000#32 (by decide) (by decide) (.inl hb)
    have hissue : writeTarget s 0x17200000#32 (targetOf 0x00008) = _ := issue_of_no_error he _
    rwa [hissue] at hwrite

end Sys2Proof.Proofs

/-! The control family (40_control.md): issue, the engine step, what stops the machine, how a command ends, NOP, CLEAR and
SOFT_RESET, and CONFIGURE's checks and lengths. -/

namespace Sys2Proof.Proofs

open Sys2Proof Sys2Proof.Machine Sys2Proof.Claims

/-! ### The write to CMD (40_control.md R140) -/

/-- An admitted access to another register than CTRL and STATUS is a hazard while BUSY = 1 (60_exceptions.md R339). -/
theorem hostAccess_hazard {s : State} {a : Access} (ha : a.admitted = true) (hb : s.busy = true)
    (ht : allowedWhileBusy (targetOf a.addr) = false) : hostAccess a s = .fault .hostHazard := by
  simp [hostAccess, ha, hb, ht]

/-- A command word is ignored while ERR = 1 (40_control.md R140). -/
theorem issue_of_error {s : State} (he : s.err = true) (w : Word) : issue w s = s := by
  simp [issue, he]

/-- What answers at 0x00008 is CMD, and a write to it while BUSY = 0 is the issue of the word (40_control.md R140). -/
theorem hostWrites_cmd {s : State} (hb : s.busy = false) (w : Word) : HostWrites s 0x00008 w (issue w s) :=
  hostWrites_of_allowed (a := 0x00008) w (by decide) (by decide) (.inl hb)

/-- Settles O4: CMD is not open while BUSY = 1, and an issue looks at ERR alone. -/
theorem commandWriteIssues : Obligations.CommandWriteIssues := by
  refine fun s w => ⟨fun hb => ?_, fun hb he => ?_, fun hb he => ?_⟩
  · exact hostAccess_hazard (admitted_of_aligned _ (by decide) (by decide)) hb rfl
  · simpa only [issue_of_error he] using hostWrites_cmd hb w
  · simpa only [issue_of_no_error he] using hostWrites_cmd hb w

/-! ### One step (40_control.md R141, 60_exceptions.md R349; log 3) -/

theorem step_of_no_input {s : State} (h : s.inputs = []) : step s = engineTurn s := by
  simp [step, h]

theorem step_of_input {s : State} {i : Input} {rest : List Input} (h : s.inputs = i :: rest) :
    step s = takeInput i { s with inputs := rest } := by
  simp [step, h]

theorem engineTurn_of_idle {s : State} (hb : s.busy = false) : engineTurn s = .next s := by
  simp [engineTurn, hb]

/-- Settles O5: the engine's turn, whether it comes as an input or when none is left, sees the flags and LATCH as they
are. -/
theorem stepRunsTheLatchedCommand : Obligations.StepRunsTheLatchedCommand := by
  refine fun s rest => ⟨⟨step_of_no_input, step_of_input⟩, fun i hb hd => ⟨fun h => ?_, fun h => ?_⟩,
    fun hb hd => ⟨fun h => ?_, fun h => ?_⟩, fun hb => ⟨fun h => ?_, fun h => ?_⟩, fun a => step_of_input⟩
  · exact (step_of_no_input h).trans (engineTurn_of_decode_some hb hd)
  · exact (step_of_input h).trans (engineTurn_of_decode_some (s := { s with inputs := rest }) hb hd)
  · exact (step_of_no_input h).trans (engineTurn_of_decode_none hb hd)
  · exact (step_of_input h).trans (engineTurn_of_decode_none (s := { s with inputs := rest }) hb hd)
  · exact (step_of_no_input h).trans (engineTurn_of_idle hb)
  · exact (step_of_input h).trans (engineTurn_of_idle (s := { s with inputs := rest }) hb)

/-- The engine's turn is the next input after `latchCommand` (log 4). -/
theorem step_latchCommand (w : Word) (s : State) :
    step (latchCommand w s) = engineTurn { s with latch := w, done := false, busy := true } :=
  step_of_input (latchCommand_inputs w s)

/-- Settles O6: `withFetchWord` latches a 32-bit word as it is. -/
theorem placedWordRunsNext : Obligations.PlacedWordRunsNext := by
  intro s i w hw hd
  have hmod : w % 2 ^ 32 = w := Nat.mod_eq_of_lt hw
  rw [decodeTableWord, hmod] at hd
  rw [State.withFetchWord, hmod, step_latchCommand]
  exact engineTurn_of_decode_some (s := { s with latch := _, done := _, busy := true }) rfl hd

/-! ### What stops the machine (60_exceptions.md R330, R339, R340) -/

/-- "The step always terminates" (40_control.md R141): no command stops the machine. -/
theorem exec_next (i : Instr) (s : State) : ∃ t, exec i s = .next t := by
  rcases exec_cases i s with ⟨u, -, h⟩ | ⟨e, -, h⟩ | ⟨-, -, h⟩ <;> exact ⟨_, h⟩

theorem engineTurn_next (s : State) : ∃ t, engineTurn s = .next t := by
  rcases engineTurn_cases s with ⟨-, h⟩ | ⟨-, -, h⟩ | ⟨-, i, -, h⟩
  · exact ⟨_, h⟩
  · exact ⟨_, h⟩
  · exact h ▸ exec_next i s

/-- An access that the host contract allows is performed. -/
theorem hostAccess_next {s : State} {a : Access} (h : AccessAllowed s a) : ∃ t, hostAccess a s = .next t := by
  obtain ⟨hadm, hopen⟩ := h
  rcases hostAccess_cases a s with ⟨ha, -⟩ | ⟨-, hb, hw, -⟩ | ⟨-, -, ⟨-, hx⟩ | ⟨v, -, hx⟩⟩
  · exact absurd (hadm.symm.trans ha) (by decide)
  · rcases hopen hb with haddr | haddr <;> rw [haddr] at hw <;> cases hw
  · exact ⟨_, hx⟩
  · exact ⟨_, hx⟩

/-- Settles O9: the engine's turn and the reset answer a next state, and so does an access that is allowed. -/
theorem onlyHostMisuseStopsTheMachine : Obligations.OnlyHostMisuseStopsTheMachine := by
  intro s
  cases hin : s.inputs with
  | nil => exact .inl (step_of_no_input hin ▸ engineTurn_next s)
  | cons i rest =>
    rw [step_of_input hin]
    cases i with
    | engine => exact .inl (engineTurn_next _)
    | reset => exact .inl ⟨_, rfl⟩
    | bus a =>
      by_cases ha : AccessAllowed s a
      · exact .inl (hostAccess_next (s := { s with inputs := rest }) ha)
      · exact .inr ⟨a, rest, rfl, ha⟩

/-! ### How a command ends (40_control.md R141) -/

/-- Settles O11: a success sets DONE and keeps ERR at 0, an error sets ERR and keeps DONE at 0, and both clear BUSY. -/
theorem everyCommandEndsDoneOrInError : Obligations.EveryCommandEndsDoneOrInError := by
  intro i s hd he
  rcases exec_cases i s with ⟨u, hu, hx⟩ | ⟨e, -, hx⟩ | ⟨-, -, hx⟩
  · exact ⟨_, hx, rfl, by simp [bodyOf_keeps_err he hu]⟩
  · exact ⟨_, hx, rfl, by simp [failedState, hd]⟩
  · exact ⟨_, hx, rfl, by simp [hd]⟩

/-! ### NOP, CLEAR and SOFT_RESET (40_control.md R142, R149, R150) -/

theorem stageCodes_ne_nil (inter : Bool) (i : Instr) : stageCodes inter i ≠ [] := by
  cases i with
  | assemblePost => cases inter <;> nofun
  | _ => nofun

/-- While a command runs, STATE is one of its codes (10_state.md R37, 47_assembler.md R300). -/
theorem stageField_mem {s : State} {i : Instr} (hb : s.busy = true) (hd : decode s.latch = some i) :
    stageField s ∈ stageCodes (l1Interleaved s.actCfg) i := by
  have hcodes : runningCodes s = stageCodes (l1Interleaved s.actCfg) i := by simp [runningCodes, hd]
  have hlt := Nat.mod_lt (Config.freeStage s.draws)
    (List.length_pos_iff.2 (stageCodes_ne_nil (l1Interleaved s.actCfg) i))
  rw [stageField, if_pos hb, hcodes, List.getD_eq_getElem _ _ hlt]
  exact List.getElem_mem hlt

/-- A command's word decodes to it, and STATE shows the codes of R300 while it runs. -/
theorem isCommand_of_codes {i : Instr} {codes : List (BitVec 4)} (h : ∀ inter, stageCodes inter i = codes) :
    IsCommand i (tableWord i) codes := by
  have hd : decode (tableWord i) = some i :=
    (decodeAndEncodeAgreeWithTheTable _ i).1.2 (encode_eq_tableWord i)
  refine ⟨hd, fun s hb hl => ?_⟩
  rw [← h]
  exact stageField_mem hb (hl ▸ hd)

theorem resetCore_atReset (s : State) : AtReset (finish (resetCore s)) := by
  refine ⟨⟨rfl, rfl, rfl, rfl, rfl, rfl, rfl⟩, ⟨rfl, rfl, rfl, rfl, rfl, rfl, rfl, rfl, rfl, rfl⟩,
    ⟨rfl, rfl, fun r => ?_⟩, fun _ => rfl, fun _ => rfl, fun r _ => ?_⟩
  · cases r <;> exact ⟨rfl, rfl, rfl, rfl, rfl⟩
  · cases r <;> rfl

/-- Settles O30: none of the three has an error or needs CONFIGURED, and R300 gives each the code 0. -/
theorem nopClearAndSoftReset : Obligations.NopClearAndSoftReset := fun s =>
  ⟨⟨isCommand_of_codes (i := .nop) fun _ => rfl, rfl⟩,
    ⟨isCommand_of_codes (i := .clear) fun _ => rfl, _, rfl, rfl, Memory.elem_invalid⟩,
    ⟨isCommand_of_codes (i := .softReset) fun _ => rfl, _, rfl, resetCore_atReset s, rfl, rfl, rfl, rfl, rfl⟩⟩

/-! ### The checks, in order (40_control.md R145) -/

/-- In a list numbered in rising order, the first entry that does not hold is reported. -/
theorem firstFailing_eq_some {l : List (Nat × Bool)} {n : Nat} (hl : l.Pairwise (fun c d => c.1 < d.1))
    (hn : (n, false) ∈ l) (hbefore : ∀ c ∈ l, c.1 < n → c.2 = true) : firstFailing l = some n := by
  induction l with
  | nil => cases hn
  | cons c l ih =>
    obtain ⟨k, ok⟩ := c
    rw [List.pairwise_cons] at hl
    rcases List.mem_cons.1 hn with heq | hmem
    · cases heq; rfl
    · have hok : ok = true := hbefore (k, ok) List.mem_cons_self (hl.1 _ hmem)
      rw [firstFailing, if_pos hok]
      exact ih hl.2 hmem fun d hd => hbefore d (List.mem_cons_of_mem _ hd)

theorem bothRecs_iff {f : Rec → Bool} : bothRecs f = true ↔ ∀ r, f r = true := by
  rw [bothRecs, Bool.and_eq_true]
  exact ⟨fun ⟨hpre, hpost⟩ r => by cases r <;> assumption, fun h => ⟨h .pre, h .post⟩⟩

/-! ### Each check as R145 and the rules of its table have it -/

section
variable {p : Params} {cfg : BitVec 15}

theorem cfgPlpMod_toNat (cfg : BitVec 15) : (cfgPlpMod cfg).toNat = cfg.toNat / 16 % 8 := by
  simp [cfgPlpMod, Nat.shiftRight_eq_div_pow]

theorem cfgL1Mod_toNat (cfg : BitVec 15) : (cfgL1Mod cfg).toNat = cfg.toNat / 128 % 16 := by
  simp [cfgL1Mod, Nat.shiftRight_eq_div_pow]

/-- A list of C distinct column numbers is a permutation of them (45_interleave.md R260). -/
theorem tableSetWf_iff {c r : Nat} {t : TableSet} : tableSetWf c r t = true ↔ FitsGrid c r t := by
  have hperm : t.dm.length = c ∧ (∀ x ∈ t.dm, x < c) ∧ t.dm.Nodup ↔ t.dm.Perm (List.range c) := by
    constructor
    · rintro ⟨hlen, hlt, hnodup⟩
      exact (hnodup.subperm fun x hx => List.mem_range.2 (hlt x hx)).perm_of_length_le (by simp [hlen])
    · intro h
      exact ⟨by simpa using h.length_eq, fun x hx => List.mem_range.1 (h.subset hx), h.nodup_iff.2 List.nodup_range⟩
  simp only [tableSetWf, FitsGrid, ← hperm, Bool.and_eq_true, beq_iff_eq, List.all_eq_true, decide_eq_true_eq]
  tauto

theorem l1Interleaved_iff : l1Interleaved cfg = true ↔ cfg.toNat / 128 % 16 = 2 ∨ cfg.toNat / 128 % 16 = 3 := by
  simp [l1Interleaved, ← BitVec.toNat_inj, cfgL1Mod_toNat]

theorem check1_iff : check1 cfg = true ↔ CheckHolds 1 p cfg := by
  rw [check1, cfgPlpMod_toNat, decide_eq_true_eq]
  rfl

theorem check2_iff : check2 cfg = true ↔ CheckHolds 2 p cfg := by
  rw [check2, cfgL1Mod_toNat, decide_eq_true_eq]
  rfl

theorem check4_iff : check4 p cfg = true ↔ CheckHolds 4 p cfg := by
  show _ ↔ (payMod cfg ≠ .qpsk → ∃ t, payTablesOf p cfg = some t ∧ FitsGrid _ _ t)
  cases ht : payTablesOf p cfg <;> simp [check4, ht, tableSetWf_iff, or_iff_not_imp_left]

/-- A polynomial of degree 14 with constant term 1 (42_bch.md R190, 00_scope.md R13). -/
theorem degree14_iff {f : Nat} :
    f ≠ 0 ∧ gf2Degree f = 14 ∧ f.testBit 0 = true ↔ 2 ^ 14 ≤ f ∧ f < 2 ^ 15 ∧ f % 2 = 1 := by
  rw [Nat.testBit_zero, decide_eq_true_eq, ← and_assoc, ← and_assoc (a := 2 ^ 14 ≤ f)]
  refine and_congr_left fun _ => ⟨fun ⟨h0, hd⟩ => (Nat.log2_eq_iff h0).1 hd, fun h => ?_⟩
  have h0 : f ≠ 0 := by omega
  exact ⟨h0, (Nat.log2_eq_iff h0).2 h⟩

theorem check5_iff : check5 p = true ↔ CheckHolds 5 p cfg := by
  simp only [check5, Bool.and_eq_true, beq_iff_eq, List.all_eq_true, decide_eq_true_eq, and_assoc, degree14_iff]
  rfl

theorem pBitsOf_pos_iff {r : Rec} : 0 < pBitsOf p r ↔ kLdpcOf p r < p.nLdpcSig := Nat.sub_pos_iff_lt

theorem check6_iff : check6 p = true ↔ CheckHolds 6 p cfg := by
  simp only [check6, bothRecs_iff, baseWf, Bool.and_eq_true, beq_iff_eq, List.all_eq_true, decide_eq_true_eq,
    pBitsOf_pos_iff, and_assoc]
  rfl

theorem check7_iff : check7 p = true ↔ CheckHolds 7 p cfg := by
  simp only [check7, bothRecs_iff, Bool.and_eq_true, List.all_eq_true, decide_eq_true_eq]
  rfl

theorem check8_iff : check8 p cfg = true ↔ CheckHolds 8 p cfg := by
  simp only [check8, bothRecs_iff, Bool.and_eq_true, List.all_eq_true, decide_eq_true_eq, and_assoc]
  rfl

theorem check10_iff : check10 p cfg = true ↔ CheckHolds 10 p cfg := by
  show _ ↔ (cfg.toNat / 128 % 16 = 2 ∨ cfg.toNat / 128 % 16 = 3 → ∃ t, l1TablesOf p cfg = some t ∧
    nFecOf p cfg .post % l1Cols cfg = 0 ∧ FitsGrid (l1Cols cfg) (nFecOf p cfg .post / l1Cols cfg) t)
  rw [← l1Interleaved_iff]
  cases ht : l1TablesOf p cfg <;> cases hi : l1Interleaved cfg <;> simp [check10, ht, hi, tableSetWf_iff]

theorem check11_iff : check11 cfg = true ↔ CheckHolds 11 p cfg := by
  rw [check11, Bool.and_eq_true, beq_iff_eq, decide_eq_true_eq]
  rfl

/-! ### Check 9 and the lengths (44_puncture.md R230 to R235) -/

/-- Rounding up to a multiple, as 44_puncture.md R233 writes it. -/
theorem roundsUp_iff {n unit m : Nat} (hu : 0 < unit) : RoundsUp n unit m ↔ m = ceilDiv n unit * unit := by
  have hle : ceilDiv n unit * unit ≤ n + unit - 1 := Nat.div_mul_le_self _ _
  have hlt : n + unit - 1 < ceilDiv n unit * unit + unit := Nat.lt_div_mul_add hu
  constructor
  · rintro ⟨hmod, hge, hltm⟩
    obtain ⟨k, rfl⟩ := Nat.dvd_of_mod_eq_zero hmod
    rw [Nat.mul_comm unit k] at hge hltm ⊢
    have hk : ceilDiv n unit = k :=
      Nat.div_eq_of_lt_le (by omega) (by rw [Nat.add_one_mul]; omega)
    rw [hk]
  · rintro rfl
    exact ⟨Nat.mul_mod_left _ _, by omega, by omega⟩

theorem framing_iff {r : Rec} {f : Nat} : Framing p cfg r f ↔ framingOf p cfg r = some f := by
  cases r with
  | pre => simp [Framing, framingOf, eq_comm]
  | post =>
    simp only [Framing, framingOf]
    cases p.fftFactor.at (cfgFft cfg) with
    | none => simp
    | some x => cases x <;> simp [eq_comm]

theorem framingOf_pos {r : Rec} {f : Nat} (h : framingOf p cfg r = some f) : 0 < f := by
  cases r with
  | pre => cases h; decide
  | post =>
    rcases framing_iff.2 h with ⟨-, rfl⟩ | ⟨-, rfl⟩ <;> decide

theorem etaOf_pos (cfg : BitVec 15) (r : Rec) : 0 < etaOf cfg r := by
  cases r with
  | pre => exact Nat.one_pos
  | post => unfold etaOf; cases l1Mod cfg <;> decide

/-- N_FEC is N_temp rounded up to a multiple of eta(rec) * F(rec). -/
theorem roundsUp_nFecRound {r : Rec} {f : Nat} (hf : framingOf p cfg r = some f) (t m : Nat) :
    RoundsUp (nTempOf p cfg r t) (etaOf cfg r * f) m ↔ m = nFecRound p cfg r t f :=
  roundsUp_iff (Nat.mul_pos (etaOf_pos cfg r) (framingOf_pos hf))

theorem nFecOf_eq {r : Rec} {f t : Nat} (hf : framingOf p cfg r = some f) (ht : puncTempOf p cfg r = some t) :
    nFecOf p cfg r = nFecRound p cfg r t f := by
  simp [nFecOf, hf, ht]

theorem nPuncOf_eq {r : Rec} {f t : Nat} (hf : framingOf p cfg r = some f) (ht : puncTempOf p cfg r = some t) :
    nPuncOf p cfg r = t - (nFecRound p cfg r t f - nTempOf p cfg r t) := by
  simp [nPuncOf, roundingOf, hf, ht]

/-- Check 9 asks for F(rec) and PUNC_TEMP and bounds what they give. -/
theorem check9_bounds_iff : check9 p cfg = true ↔ ∀ r, ∃ f t,
    framingOf p cfg r = some f ∧ puncTempOf p cfg r = some t ∧ t ≤ pBitsOf p r ∧ roundingOf p cfg r t f ≤ t ∧
      nPuncOf p cfg r ≤ pBitsOf p r ∧ ceilDiv (nPuncOf p cfg r) grp ≤ (p.puncOrder.get r).length ∧
      nSymOf p cfg r ≤ obSize := by
  rw [check9, bothRecs_iff]
  refine forall_congr' fun r => ?_
  cases framingOf p cfg r <;> cases puncTempOf p cfg r <;> simp [and_assoc]

theorem ceilDiv_grp_le_iff {n k : Nat} : ceilDiv n grp ≤ k ↔ n ≤ 360 * k := by
  unfold ceilDiv grp
  omega

/-- N_punc in the natural numbers of the model (log 14) and in the integers of R234: N_temp does not underflow, for
PUNC_TEMP is at most PBITS. -/
theorem puncture_bounds_iff {kSig pBits t nFec groups : Nat} (ht : t ≤ pBits) (hn : kSig + 168 + pBits - t ≤ nFec) :
    nFec - (kSig + 168 + pBits - t) ≤ t ∧ t - (nFec - (kSig + 168 + pBits - t)) ≤ pBits ∧
        t - (nFec - (kSig + 168 + pBits - t)) ≤ 360 * groups ↔
      (0 : Int) ≤ t - (nFec - ((kSig : Int) + 168 + pBits - t)) ∧
        (t : Int) - (nFec - ((kSig : Int) + 168 + pBits - t)) ≤ pBits ∧
        (t : Int) - (nFec - ((kSig : Int) + 168 + pBits - t)) ≤ 360 * groups := by
  omega

theorem check9_iff : check9 p cfg = true ↔ CheckHolds 9 p cfg := by
  rw [check9_bounds_iff]
  refine forall_congr' fun r => exists_congr fun f => exists_congr fun t => ?_
  constructor
  · rintro ⟨hf, ht, hle, hround, hpunc, horder, hsym⟩
    have hup := (roundsUp_nFecRound hf t _).2 rfl
    rw [nPuncOf_eq hf ht] at hpunc horder
    rw [nSymOf, nFecOf_eq hf ht] at hsym
    obtain ⟨h0, hp, ho⟩ := (puncture_bounds_iff hle hup.2.1).1 ⟨hround, hpunc, ceilDiv_grp_le_iff.1 horder⟩
    exact ⟨_, framing_iff.2 hf, ht, hle, hup, h0, hp, ho, hsym⟩
  · rintro ⟨nFec, hf, ht, hle, hup, h0, hp, ho, hsym⟩
    rw [framing_iff] at hf
    obtain rfl := (roundsUp_nFecRound hf t nFec).1 hup
    obtain ⟨hround, hpunc, horder⟩ := (puncture_bounds_iff hle hup.2.1).2 ⟨h0, hp, ho⟩
    rw [nPuncOf_eq hf ht, nSymOf, nFecOf_eq hf ht, ceilDiv_grp_le_iff]
    exact ⟨hf, ht, hle, hround, hpunc, horder, hsym⟩

/-! ### The eleven checks together -/

/-- Each entry of the list of checks says whether the condition of its number holds. -/
theorem configChecks_iff {c : Nat × Bool} (hc : c ∈ configChecks p cfg) : c.2 = true ↔ CheckHolds c.1 p cfg := by
  simp only [configChecks, List.mem_cons, List.not_mem_nil, or_false] at hc
  rcases hc with rfl | rfl | rfl | rfl | rfl | rfl | rfl | rfl | rfl | rfl | rfl
  · exact check1_iff
  · exact check2_iff
  · exact Iff.rfl
  · exact check4_iff
  · exact check5_iff
  · exact check6_iff
  · exact check7_iff
  · exact check8_iff
  · exact check9_iff
  · exact check10_iff
  · exact check11_iff

/-- The checks are numbered 1 to 11. -/
theorem exists_configCheck_iff {n : Nat} : (∃ ok, (n, ok) ∈ configChecks p cfg) ↔ 1 ≤ n ∧ n ≤ 11 := by
  have hmap : (configChecks p cfg).map Prod.fst = List.range' 1 11 := rfl
  have hmem : n ∈ (configChecks p cfg).map Prod.fst ↔ 1 ≤ n ∧ n ≤ 11 := by
    rw [hmap, List.mem_range'_1]
    omega
  simpa using hmem

theorem configChecks_ascending : (configChecks p cfg).Pairwise (fun c d => c.1 < d.1) := by
  simp [configChecks]

/-- CONFIGURE accepts a configuration that meets every condition of R145. -/
theorem failedCheck_eq_none_iff : failedCheck p cfg = none ↔ ∀ k, 1 ≤ k → k ≤ 11 → CheckHolds k p cfg := by
  rw [failedCheck, firstFailing_none]
  constructor
  · intro h k h1 h11
    obtain ⟨ok, hmem⟩ := exists_configCheck_iff.2 ⟨h1, h11⟩
    exact (configChecks_iff hmem).1 (h _ hmem)
  · intro h c hc
    obtain ⟨h1, h11⟩ := exists_configCheck_iff.1 ⟨c.2, hc⟩
    exact (configChecks_iff hc).2 (h _ h1 h11)

/-- The first condition of R145 that does not hold is the one reported. -/
theorem failedCheck_eq_some {n : Nat} (h1 : 1 ≤ n) (h11 : n ≤ 11) (hbefore : ∀ k, 1 ≤ k → k < n → CheckHolds k p cfg)
    (hn : ¬ CheckHolds n p cfg) : failedCheck p cfg = some n := by
  obtain ⟨ok, hmem⟩ := exists_configCheck_iff.2 ⟨h1, h11⟩
  have hok : ok = false := by simpa using mt (configChecks_iff hmem).1 hn
  refine firstFailing_eq_some configChecks_ascending (hok ▸ hmem) fun c hc hlt => ?_
  exact (configChecks_iff hc).2 (hbefore _ (exists_configCheck_iff.1 ⟨c.2, hc⟩).1 hlt)

end

/-- Settles O32: the list of checks is in order and each entry is its condition. -/
theorem configureReportsTheFirstFailingCheck : Obligations.ConfigureReportsTheFirstFailingCheck := by
  refine fun s => ⟨isCommand_of_codes (i := .configure) fun _ => rfl, fun n h1 h11 hbefore hn => ?_, fun hall => ?_⟩
  · exact execConfigure_of_some (failedCheck_eq_some h1 h11 hbefore hn)
  · exact ⟨_, execConfigure_of_none (failedCheck_eq_none_iff.2 hall), rfl⟩

/-! ### The lengths of an accepted configuration (40_control.md R146) -/

section
variable {p : Params} {cfg : BitVec 15}

theorem accepted_sizes (h : failedCheck p cfg = none) (r : Rec) :
    kLdpcOf p r + pBitsOf p r = p.nLdpcSig ∧ qOf p r * 360 = pBitsOf p r ∧ kSigOf p cfg r ≤ p.kBch.get r ∧
      p.nLdpcSig ≤ 64800 := by
  obtain ⟨-, hmax, hlt, hmod, -⟩ := failedCheck_eq_none_iff.1 h 6 (by decide) (by decide) r
  obtain ⟨-, -, hksig⟩ := failedCheck_eq_none_iff.1 h 8 (by decide) (by decide) r
  exact ⟨Nat.add_sub_cancel' (Nat.le_of_lt hlt), Nat.div_mul_cancel (Nat.dvd_of_mod_eq_zero hmod), hksig, hmax⟩

/-- Puncturing N_punc bits of the codeword leaves N_FEC bits, whole symbols that fit OB (44_puncture.md R232 to R234). -/
theorem accepted_lengths (h : failedCheck p cfg = none) (r : Rec) : ∃ f t,
    (Framing p cfg r f ∧ puncTempOf p cfg r = some t ∧
      RoundsUp (kSigOf p cfg r + 168 + pBitsOf p r - t) (etaOf cfg r * f) (nFecOf p cfg r)) ∧
    kSigOf p cfg r + 168 + pBitsOf p r = nFecOf p cfg r + nPuncOf p cfg r ∧ nPuncOf p cfg r ≤ pBitsOf p r ∧
      nSymOf p cfg r * etaOf cfg r = nFecOf p cfg r ∧ nSymOf p cfg r ≤ 32400 := by
  have h9 : check9 p cfg = true := check9_iff.2 (failedCheck_eq_none_iff.1 h 9 (by decide) (by decide))
  obtain ⟨f, t, hf, ht, hle, hround, hpunc, -, hsym⟩ := check9_bounds_iff.1 h9 r
  have hup : RoundsUp (kSigOf p cfg r + 168 + pBitsOf p r - t) (etaOf cfg r * f) (nFecOf p cfg r) :=
    (roundsUp_nFecRound hf t _).2 (nFecOf_eq hf ht)
  have hdvd : etaOf cfg r ∣ nFecOf p cfg r := dvd_of_mul_right_dvd (Nat.dvd_of_mod_eq_zero hup.1)
  have hsum : kSigOf p cfg r + 168 + pBitsOf p r = nFecOf p cfg r + nPuncOf p cfg r := by
    obtain ⟨-, hge, -⟩ := hup
    rw [nPuncOf_eq hf ht, ← nFecOf_eq hf ht]
    rw [roundingOf, ← nFecOf_eq hf ht] at hround
    unfold nTempOf nBchParity at hround ⊢
    omega
  exact ⟨f, t, ⟨framing_iff.2 hf, ht, hup⟩, hsum, hpunc, Nat.div_mul_cancel hdvd, hsym⟩

/-- No length exceeds N_LDPC_SIG, so each fits its 16-bit register (10_state.md R46). -/
theorem accepted_lengths_fit (h : failedCheck p cfg = none) (r : Rec) :
    kSigOf p cfg r < 2 ^ 16 ∧ nFecOf p cfg r < 2 ^ 16 ∧ nSymOf p cfg r < 2 ^ 16 := by
  obtain ⟨hn, -, hk, hmax⟩ := accepted_sizes h r
  obtain ⟨-, -, -, hsum, -, -, hsym⟩ := accepted_lengths h r
  unfold kLdpcOf nBchParity at hn
  refine ⟨?_, ?_, ?_⟩ <;> omega

theorem accepted_codes (h : failedCheck p cfg = none) : cfg.toNat / 16 % 8 ≤ 3 ∧ cfg.toNat / 128 % 16 ≤ 3 :=
  ⟨failedCheck_eq_none_iff.1 h 1 (by decide) (by decide), failedCheck_eq_none_iff.1 h 2 (by decide) (by decide)⟩

/-- The payload frame is a whole number of symbols that fit OB (check 11). -/
theorem accepted_nSymPay (h : failedCheck p cfg = none) :
    nSymPayOf cfg * eta (payMod cfg) = nFrameOf (cfgFsize cfg) ∧ nSymPayOf cfg < 2 ^ 16 := by
  obtain ⟨hmod, hle⟩ := failedCheck_eq_none_iff.1 h 11 (by decide) (by decide)
  exact ⟨Nat.div_mul_cancel (Nat.dvd_of_mod_eq_zero hmod), Nat.lt_of_le_of_lt hle (by decide)⟩

/-! ### Bits per symbol and the frame length (00_scope.md R10, R15) -/

theorem eta_l1Mod (h : cfg.toNat / 128 % 16 ≤ 3) : eta (l1Mod cfg) = [1, 2, 4, 6].getD (cfg.toNat / 128 % 16) 0 := by
  rw [l1Mod, cfgL1Mod_toNat]
  generalize cfg.toNat / 128 % 16 = n at h
  interval_cases n <;> rfl

theorem eta_payMod (h : cfg.toNat / 16 % 8 ≤ 3) : eta (payMod cfg) = [2, 4, 6, 8].getD (cfg.toNat / 16 % 8) 0 := by
  rw [payMod, cfgPlpMod_toNat]
  generalize cfg.toNat / 16 % 8 = n at h
  interval_cases n <;> rfl

theorem nFrameOf_cfgFsize (cfg : BitVec 15) :
    nFrameOf (cfgFsize cfg) = if cfg.getLsbD 0 then 16200 else 64800 := by
  unfold cfgFsize
  split <;> rfl

/-! ### The length of the schedule (43_ldpc.md R211) -/

theorem length_rowEntries (q pBits : Nat) (row : BaseRow) (r : Nat) :
    (rowEntries q pBits row r).length = grp * row.offsets.length := by
  simp [rowEntries, shiftEntries, List.length_flatMap]

/-- Each offset of the base table has 360 entries. -/
theorem length_scheduleFrom (q pBits r : Nat) (rows : List BaseRow) :
    (scheduleFrom q pBits r rows).length = grp * (rows.map fun row => row.offsets.length).sum := by
  induction rows generalizing r with
  | nil => rfl
  | cons row rows ih => simp [scheduleFrom, length_rowEntries, ih, Nat.mul_add]

/-- At most 12 offsets in each of at most 180 rows: the length fits its 20-bit register (10_state.md R46). -/
theorem accepted_schedule_fits (h : failedCheck p cfg = none) (r : Rec) : (scheduleOf p r).length < 2 ^ 20 := by
  obtain ⟨-, hmax, hlt, -, hrows, hwf⟩ := failedCheck_eq_none_iff.1 h 6 (by decide) (by decide) r
  have hsum : ((p.ldpcBase.get r).map fun row => row.offsets.length).sum ≤ (p.ldpcBase.get r).length * 12 := by
    have hle := List.sum_le_card_nsmul ((p.ldpcBase.get r).map fun row => row.offsets.length) 12 fun n hn => by
      obtain ⟨row, hrow, rfl⟩ := List.mem_map.1 hn
      obtain ⟨-, h12, hlen, -⟩ := hwf row hrow
      exact hlen ▸ h12
    simpa using hle
  rw [scheduleOf, length_scheduleFrom, grp]
  omega

end

/-- Settles O33: check 6 gives the code's sizes, check 8 KSIG, check 9 the punctured lengths and check 11 the payload's;
all are small enough for their registers. -/
theorem configureDerivesTheLengths : Obligations.ConfigureDerivesTheLengths := by
  refine fun s h => ⟨_, execConfigure_of_none h, fun r => ?_⟩
  obtain ⟨hn, hq, hk, -⟩ := accepted_sizes h r
  obtain ⟨f, t, hround, hlengths⟩ := accepted_lengths h r
  obtain ⟨hksig, hnfec, hnsym⟩ := accepted_lengths_fit h r
  obtain ⟨hpay, hl1⟩ := accepted_codes h
  obtain ⟨hframe, hsympay⟩ := accepted_nSymPay h
  simp only [finish_store, commitConfig_store, storeOf, derivedOf, regsOf, PerRec.get_of, recParamsOf,
    BitVec.toNat_ofNat, Nat.mod_eq_of_lt, hksig, hnfec, hnsym, hsympay, accepted_schedule_fits h r, true_and, and_true]
  refine ⟨⟨rfl, rfl, hn, hq, hk⟩, ⟨f, t, hround⟩, hlengths, ⟨?_, eta_payMod hpay⟩, hframe,
    nFrameOf_cfgFsize s.cfg0⟩
  cases r with
  | pre => rfl
  | post => exact eta_l1Mod hl1

end Sys2Proof.Proofs

/-! The packing and CRC family (41_pack_crc.md): commands that run their body, the bits that PACK, CRC_APPEND and PAD
write, and CRC-32 as the remainder that a feedback register computes. -/

namespace Sys2Proof.Proofs

open Sys2Proof Sys2Proof.Machine Sys2Proof.Claims

/-! ### A command that runs its body (40_control.md R141) -/

section
variable {i : Instr} {s : State}

theorem exec_eq_runAlways (hi : i ≠ .configure) (hc : needsConfig i = true → s.configured = true) :
    exec i s = runAlways (bodyOf i) s := by
  rw [exec_eq_run hi]
  split
  next hn => exact runConfigured_of_configured (hc hn)
  next => rfl

theorem exec_of_body_ok {t : State} (hi : i ≠ .configure) (hc : needsConfig i = true → s.configured = true)
    (h : bodyOf i s = .ok t) : exec i s = .next (finish t) :=
  (exec_eq_runAlways hi hc).trans (runAlways_ok h)

theorem endsInError_of_body_error {e : CmdError} (hi : i ≠ .configure)
    (hc : needsConfig i = true → s.configured = true) (h : bodyOf i s = .error e) : EndsInError i s e.code e.info :=
  (exec_eq_runAlways hi hc).trans (runAlways_error h)

/-- A body that raises the error of its checked read reports the lowest bad element (00_scope.md R12). -/
theorem reportsFirstBadBit_of_body {n : Nat} (hi : i ≠ .configure) (hc : needsConfig i = true → s.configured = true)
    (hw : s.fb.wf) (h : ∀ e, readBits s.fb n = .error e → bodyOf i s = .error e) : ReportsFirstBadBit i s n := by
  intro bs hn hb
  have hends : ∀ {e}, FailsAt s.fb bs.length e → EndsInError i s e.code e.info := fun hf =>
    endsInError_of_body_error hi hc (h _ (readBits_eq_error hw hn hb hf))
  exact ⟨fun hnone => hends (.inl ⟨hnone, rfl⟩), fun v hv hgt => hends (.inr ⟨v, hv, hgt, rfl⟩)⟩

/-! ### DP under the invariant (10_state.md R36) -/

theorem accepted_of_inv (hs : s.Inv) (hc : s.configured = true) : failedCheck s.params s.actCfg = none := by
  obtain ⟨-, -, hconfig, -⟩ := hs
  exact (hconfig hc).1

theorem recs_of_inv (hs : s.Inv) (hc : s.configured = true) (r : Rec) :
    s.store.dp.recs.get r = recParamsOf s.params s.actCfg r := by
  obtain ⟨-, -, hconfig, -⟩ := hs
  rw [(hconfig hc).2]
  exact PerRec.get_of _ r

end

/-- The record's information bits, padding and BCH parity fit the frame buffer (40_control.md R145). -/
theorem accepted_message_fits {p : Params} {cfg : BitVec 15} (h : failedCheck p cfg = none) (r : Rec) :
    expLenOf p cfg r + 32 ≤ p.kBch.get r ∧ p.kBch.get r + 168 ≤ nMax := by
  obtain ⟨hn, -, hk, hmax⟩ := accepted_sizes h r
  unfold kLdpcOf nBchParity at hn
  exact ⟨hk, by unfold nMax; omega⟩

/-- A length up to NMAX fits the 17 bits of CURSOR (10_state.md R41). -/
theorem toNat_cursor_of_le {n : Nat} (h : n ≤ nMax) : (BitVec.ofNat 17 n).toNat = n :=
  (BitVec.toNat_ofNat n 17).trans (Nat.mod_eq_of_lt (Nat.lt_of_le_of_lt h (by decide)))

/-! ### PACK (41_pack_crc.md R161, R163) -/

/-- Bit j of a field stands behind the widths of the fields before it. -/
theorem getElem?_packFrom (fields : WordRam) (i : Nat) {ws : List Nat} {f w j : Nat} (hf : ws[f]? = some w)
    (hj : j < w) :
    (packFrom fields i ws)[(ws.take f).sum + j]? = some ((fields.read (i + f)).getLsbD (w - 1 - j)) := by
  induction ws generalizing i f with
  | nil => cases hf
  | cons u ws ih =>
    cases f with
    | zero =>
      obtain rfl : u = w := by simpa using hf
      simp [packFrom, msbBits, List.getElem?_append_left, hj]
    | succ f =>
      rw [packFrom, List.take_succ_cons, List.sum_cons, Nat.add_assoc, List.getElem?_append_right (by simp),
        length_msbBits, Nat.add_sub_cancel_left, ih (i + 1) hf, Nat.add_assoc i 1 f, Nat.add_comm 1 f]

/-- The low w bits of a word are the bits of the word below w. -/
theorem testBit_toNat_mod_two_pow {k w n : Nat} (v : BitVec k) (hn : n < w) :
    (v.toNat % 2 ^ w).testBit n = v.getLsbD n := by
  simp [Nat.testBit_mod_two_pow, hn, BitVec.getLsbD]

theorem elem_writeBits_of_getElem? {m : Memory} {base j : Nat} {bs : List Bool} {b : Bool} (h : bs[j]? = some b)
    (hk : base + j < nMax) : (m.writeBits base bs).elem (base + j) = some (bitByte b) := by
  obtain ⟨hj, rfl⟩ := List.getElem?_eq_some_iff.1 h
  exact Memory.elem_writeBits m hj hk

/-- Packing writes each bit of each field at its place, masked to the field's width. -/
theorem elem_packed (fields : WordRam) {ws : List Nat} {f w j : Nat} (hsum : ws.sum ≤ nMax) (hf : ws[f]? = some w)
    (hj : j < w) :
    (Memory.invalid.writeBits 0 (packedBits ws fields)).elem ((ws.take f).sum + j) =
      some (bitByte (((fields.read f).toNat % 2 ^ w).testBit (w - 1 - j))) := by
  have hbit : (packedBits ws fields)[(ws.take f).sum + j]? = some ((fields.read f).getLsbD (w - 1 - j)) := by
    simpa [packedBits] using getElem?_packFrom fields 0 hf hj
  have hlt : (ws.take f).sum + j < ws.sum := by simpa using (List.getElem?_eq_some_iff.1 hbit).1
  have helem := elem_writeBits_of_getElem? (m := Memory.invalid) (base := 0) hbit (by omega)
  rwa [Nat.zero_add, ← testBit_toNat_mod_two_pow _ (by omega : w - 1 - j < w)] at helem

/-- Both forms of PACK need CONFIGURED and run PACK's body (30_encoding.md R112, R113). -/
theorem packOf_runs_packBody (r : Rec) : packOf r ≠ .configure ∧ needsConfig (packOf r) = true ∧
    bodyOf (packOf r) = packBody r ∧ IsCommand (packOf r) (tableWord (packOf r)) [1] := by
  cases r <;> exact ⟨nofun, rfl, rfl, isCommand_of_codes fun _ => rfl⟩

/-- Settles O36: the widths of an accepted configuration sum to EXPLEN, so the packed bits fit the frame buffer. -/
theorem packSerialisesTheFields : Obligations.PackSerialisesTheFields := by
  intro r s
  obtain ⟨hne, hneeds, hbody, hcmd⟩ := packOf_runs_packBody r
  refine ⟨by cases r <;> exact hcmd, exec_of_not_configured hneeds, fun hc hsum => ?_, fun hs hc hsum => ?_⟩
  · have herr : bodyOf (packOf r) s = .error (.len _) := hbody ▸ packBody_error.2 ⟨hsum, rfl⟩
    exact endsInError_of_body_error hne (fun _ => hc) herr
  · obtain ⟨hlen, hfit⟩ := accepted_message_fits (accepted_of_inv hs hc) r
    have hmax : ((s.params.schema.get r).at s.actCfg).sum ≤ nMax := by
      rw [hsum]
      exact (Nat.le_add_right _ 32).trans (hlen.trans ((Nat.le_add_right _ 168).trans hfit))
    have hok : bodyOf (packOf r) s = .ok _ := hbody ▸ packBody_ok.2 ⟨hsum, rfl⟩
    refine ⟨_, exec_of_body_ok hne (fun _ => hc) hok, rfl, (toNat_cursor_of_le hmax).trans hsum,
      fun f w j hf hj => elem_packed _ hmax hf hj, fun k hk => ?_⟩
    exact Memory.elem_writeBits_outside _ (.inr (by simpa [schemaOf, hsum] using hk))

/-! ### CRC_APPEND (41_pack_crc.md R166, R168) -/

/-- A written word stands MSB-first. -/
theorem elem_writeBits_msbBits (m : Memory) {base n w j : Nat} (v : BitVec w) (hj : j < n) (hk : base + n ≤ nMax) :
    (m.writeBits base (msbBits n v)).elem (base + j) = some (bitByte (v.getLsbD (n - 1 - j))) := by
  rw [Memory.elem_writeBits m (by simpa using hj) (by omega), getElem_msbBits]

/-- Settles O37: the checked read answers the n bits or the lowest bad one, and the CRC stands behind them. -/
theorem crcAppendAppendsTheCrc : Obligations.CrcAppendAppendsTheCrc := by
  refine fun s => ⟨isCommand_of_codes (i := .crcAppend) fun _ => rfl, fun hlong => ?_,
    fun hfit hw => ⟨?_, fun bs hl hb => ?_⟩⟩
  · exact endsInError_of_body_error (i := .crcAppend) nofun nofun (crcBody_error.2 (.inl ⟨hlong, rfl⟩))
  · exact reportsFirstBadBit_of_body nofun nofun hw fun e he => crcBody_error.2 (.inr ⟨hfit, he⟩)
  · have hread : readBits s.fb s.cursor.toNat = .ok bs := (readBits_ok hw).2 ⟨hl, hb⟩
    refine ⟨_, exec_of_body_ok (i := .crcAppend) nofun nofun (crcBody_ok.2 ⟨hfit, bs, hread, rfl⟩), rfl,
      toNat_cursor_of_le hfit, fun j hj => elem_writeBits_msbBits s.fb _ hj hfit, fun k hk => ?_⟩
    exact Memory.elem_writeBits_outside s.fb (by simpa using hk)

/-! ### PAD (41_pack_crc.md R173) -/

/-- Both forms of PAD need CONFIGURED and run PAD's body (30_encoding.md R112, R113). -/
theorem padOf_runs_padBody (r : Rec) : padOf r ≠ .configure ∧ needsConfig (padOf r) = true ∧
    bodyOf (padOf r) = padBody r ∧ IsCommand (padOf r) (tableWord (padOf r)) [3] := by
  cases r <;> exact ⟨nofun, rfl, rfl, isCommand_of_codes fun _ => rfl⟩

/-- Elements `base` to `stop - 1` hold the zeros written there. -/
theorem elem_writeBits_zeros (m : Memory) {base stop k : Nat} (hb : base ≤ k) (hk : k < stop) (hs : stop ≤ nMax) :
    (m.writeBits base (List.replicate (stop - base) false)).elem k = some 0 := by
  obtain ⟨j, rfl⟩ := Nat.exists_eq_add_of_le hb
  rw [Memory.elem_writeBits m (by rw [List.length_replicate]; omega) (by omega), List.getElem_replicate]
  rfl

/-- Settles O39: KSIG is at most K_BCH, and K_BCH is inside the frame buffer, in an accepted configuration. -/
theorem padFillsWithZeros : Obligations.PadFillsWithZeros := by
  intro r s
  obtain ⟨hne, hneeds, hbody, hcmd⟩ := padOf_runs_padBody r
  refine ⟨by cases r <;> exact hcmd, exec_of_not_configured hneeds, fun hc hcur => ?_, fun hs hc hcur => ?_⟩
  · have herr : bodyOf (padOf r) s = .error (.len _) := hbody ▸ padBody_error.2 ⟨hcur, rfl⟩
    exact endsInError_of_body_error hne (fun _ => hc) herr
  · obtain ⟨hlen, hfit⟩ : (s.store.dp.recs.get r).kSig ≤ (s.store.dp.recs.get r).kBch ∧
        (s.store.dp.recs.get r).kBch + 168 ≤ nMax := by
      rw [recs_of_inv hs hc r]
      exact accepted_message_fits (accepted_of_inv hs hc) r
    have hmax : (s.store.dp.recs.get r).kBch ≤ nMax := by omega
    have hok : bodyOf (padOf r) s = .ok _ := hbody ▸ padBody_ok.2 ⟨hcur, rfl⟩
    refine ⟨_, exec_of_body_ok hne (fun _ => hc) hok, rfl, toNat_cursor_of_le hmax,
      fun k hlo hhi => elem_writeBits_zeros s.fb hlo hhi hmax, fun k hk => ?_⟩
    exact Memory.elem_writeBits_outside s.fb (by rwa [List.length_replicate, Nat.add_sub_cancel' hlen])

/-! ### Bit sequences as polynomials over GF(2) (00_scope.md R13) -/

section
open Polynomial

theorem seqPoly_append (bs cs : List Bool) : seqPoly (bs ++ cs) = seqPoly bs * X ^ cs.length + seqPoly cs := by
  induction bs with
  | nil => simp [seqPoly]
  | cons b bs ih => cases b <;> simp [seqPoly, ih, pow_add, add_mul, add_assoc]

theorem degree_seqPoly_lt (bs : List Bool) : (seqPoly bs).degree < bs.length := by
  induction bs with
  | nil => simp [seqPoly]
  | cons b bs ih =>
    have hlt : ((bs.length : Nat) : WithBot Nat) < ((b :: bs).length : Nat) := by
      exact_mod_cast Nat.lt_succ_self bs.length
    refine (degree_add_le _ _).trans_lt (max_lt ?_ (ih.trans hlt))
    cases b
    · simp
    · simpa using hlt

/-- The first bit of a value is its highest. -/
theorem msbBits_succ {w : Nat} (n : Nat) (v : BitVec w) : msbBits (n + 1) v = v.getLsbD n :: msbBits n v := by
  simp [msbBits, List.range_succ_eq_map, Function.comp_def, Nat.sub_sub, Nat.add_comm]

/-- Shifting a value left drops its first bit and appends a 0. -/
theorem msbBits_shiftLeft_one {n : Nat} (v : BitVec (n + 1)) : msbBits (n + 1) (v <<< 1) = msbBits n v ++ [false] := by
  refine List.ext_getElem (by simp) fun j hj _ => ?_
  have hjn : j < n + 1 := by simpa using hj
  rw [getElem_msbBits, BitVec.getLsbD_shiftLeft]
  by_cases h : j < n
  · have h1 : ¬ n - j < 1 := by omega
    have h2 : n - j < n + 1 := by omega
    rw [List.getElem_append_left (by simpa using h), getElem_msbBits]
    simp [h1, h2, Nat.sub_right_comm]
  · obtain rfl : j = n := by omega
    simp

/-- Addition in GF(2) is exclusive or. -/
theorem ite_xor_eq_add (b c : Bool) (p : (ZMod 2)[X]) :
    (if b ^^ c then p else 0) = (if b then p else 0) + if c then p else 0 := by
  cases b <;> cases c <;> simp [CharTwo.add_self_eq_zero]

theorem seqPoly_msbBits_xor {w : Nat} (n : Nat) (u v : BitVec w) :
    seqPoly (msbBits n (u ^^^ v)) = seqPoly (msbBits n u) + seqPoly (msbBits n v) := by
  induction n with
  | zero => simp [msbBits, seqPoly]
  | succ n ih =>
    simp only [msbBits_succ, seqPoly, ih, length_msbBits, BitVec.getLsbD_xor, ite_xor_eq_add]
    exact add_add_add_comm _ _ _ _

/-- The polynomial of a value by the degrees of its bits. -/
theorem seqPoly_msbBits_eq_sum {w : Nat} (n : Nat) (v : BitVec w) :
    seqPoly (msbBits n v) = ∑ i ∈ Finset.range n, if v.getLsbD i then X ^ i else 0 := by
  induction n with
  | zero => rfl
  | succ n ih => rw [msbBits_succ, seqPoly, ih, length_msbBits, Finset.sum_range_succ, add_comm]

/-- A number below 2^m has no bit at m or above. -/
theorem natPoly_eq_sum {n m : Nat} (h : n < 2 ^ m) :
    natPoly n = ∑ i ∈ Finset.range m, if n.testBit i then X ^ i else 0 := by
  by_cases h0 : n = 0
  · simp [h0, natPoly]
  · refine Finset.sum_subset (Finset.range_subset_range.2 ((Nat.log2_lt h0).2 h)) fun i _ hi => ?_
    have hlog : n.log2 < i := by simpa using hi
    rw [Nat.testBit_eq_false_of_lt ((Nat.log2_lt h0).1 hlog)]
    rfl

theorem natPoly_toNat {w : Nat} (v : BitVec w) : natPoly v.toNat = seqPoly (msbBits w v) := by
  rw [natPoly_eq_sum v.isLt, seqPoly_msbBits_eq_sum]
  rfl

/-! ### The feedback register (41_pack_crc.md R165) -/

/-- One bit into a register that divides by `x^w + g`: CRC-32's with w = 32, the BCH encoder's with w = 168
(42_bch.md R193). -/
def lfsrStep {w : Nat} (g c : BitVec w) (b : Bool) : BitVec w :=
  if c.getLsbD (w - 1) ^^ b then (c <<< 1) ^^^ g else c <<< 1

theorem crcStep_eq_lfsrStep : crcStep = lfsrStep 0x04C11DB7#32 := rfl

/-- The polynomial `x^w + g` that the register divides by. -/
noncomputable def lfsrModulus {w : Nat} (g : BitVec w) : (ZMod 2)[X] := X ^ w + seqPoly (msbBits w g)

theorem degree_seqPoly_msbBits_lt {w : Nat} (v : BitVec w) : (seqPoly (msbBits w v)).degree < w := by
  simpa using degree_seqPoly_lt (msbBits w v)

theorem lfsrModulus_monic {w : Nat} (g : BitVec w) : (lfsrModulus g).Monic :=
  monic_X_pow_add (degree_seqPoly_msbBits_lt g)

theorem degree_lfsrModulus {w : Nat} (g : BitVec w) : (lfsrModulus g).degree = w := by
  rw [lfsrModulus, degree_add_eq_left_of_degree_lt] <;> rw [degree_X_pow]
  exact degree_seqPoly_msbBits_lt g

/-- Multiplication by x shifts, and the highest bit becomes x^w. -/
theorem seqPoly_msbBits_mul_X {n : Nat} (c : BitVec (n + 1)) :
    seqPoly (msbBits (n + 1) c) * X =
      (if c.getLsbD n then X ^ (n + 1) else 0) + seqPoly (msbBits (n + 1) (c <<< 1)) := by
  rw [msbBits_shiftLeft_one, seqPoly_append, msbBits_succ]
  simp [seqPoly, add_mul, pow_succ]

/-- One step multiplies by x and adds the bit at x^w, up to the modulus, which is subtracted where x^w arises. -/
theorem seqPoly_lfsrStep {n : Nat} (g c : BitVec (n + 1)) (b : Bool) :
    seqPoly (msbBits (n + 1) c) * X + (if b then X ^ (n + 1) else 0) =
      seqPoly (msbBits (n + 1) (lfsrStep g c b)) + if c.getLsbD n ^^ b then lfsrModulus g else 0 := by
  rw [seqPoly_msbBits_mul_X, add_right_comm, ← ite_xor_eq_add, lfsrStep, Nat.add_sub_cancel]
  cases c.getLsbD n ^^ b with
  | false => simp
  | true =>
    have hcancel := CharTwo.add_self_eq_zero (seqPoly (msbBits (n + 1) g))
    simp only [if_true, lfsrModulus, seqPoly_msbBits_xor]
    linear_combination -hcancel

/-- The register after `bs` is `c * x^n + bs * x^w` up to a multiple of the modulus. -/
theorem lfsrModulus_dvd_foldl {n : Nat} (g c : BitVec (n + 1)) (bs : List Bool) :
    lfsrModulus g ∣ seqPoly (msbBits (n + 1) c) * X ^ bs.length + seqPoly bs * X ^ (n + 1) -
      seqPoly (msbBits (n + 1) (bs.foldl (lfsrStep g) c)) := by
  induction bs generalizing c with
  | nil => simp [seqPoly]
  | cons b bs ih =>
    have hstep : lfsrModulus g ∣ (if c.getLsbD n ^^ b then lfsrModulus g else 0) * X ^ bs.length := by
      split <;> simp
    refine (dvd_add hstep (ih (lfsrStep g c b))).trans (dvd_of_eq ?_)
    have hb : (if b then X ^ bs.length else 0) * X ^ (n + 1) =
        (if b then X ^ (n + 1) else 0) * (X : (ZMod 2)[X]) ^ bs.length := by
      cases b <;> simp [mul_comm]
    simp only [seqPoly, List.foldl_cons, List.length_cons, pow_succ X bs.length, add_mul, hb]
    linear_combination (-(X : (ZMod 2)[X]) ^ bs.length) * seqPoly_lfsrStep g c b

/-- The register computes the remainder modulo `x^w + g` of `c * x^n + bs * x^w`. -/
theorem modByMonic_lfsrModulus {n : Nat} (g c : BitVec (n + 1)) (bs : List Bool) :
    (seqPoly (msbBits (n + 1) c) * X ^ bs.length + seqPoly bs * X ^ (n + 1)) %ₘ lfsrModulus g =
      seqPoly (msbBits (n + 1) (bs.foldl (lfsrStep g) c)) := by
  rw [modByMonic_eq_of_dvd_sub (lfsrModulus_monic g) (lfsrModulus_dvd_foldl g c bs),
    modByMonic_eq_self_iff (lfsrModulus_monic g), degree_lfsrModulus]
  exact degree_seqPoly_msbBits_lt _

end

/-- A register that is fed its own highest bit shifts. -/
theorem lfsrStep_highest_bit {w : Nat} (g c : BitVec w) : lfsrStep g c (c.getLsbD (w - 1)) = c <<< 1 := by
  simp [lfsrStep]

/-- A register whose upper k bits are `c`'s lowest, fed these, runs empty. -/
theorem foldl_lfsrStep_msbBits {w : Nat} (g c : BitVec w) {k : Nat} (hk : k ≤ w) :
    (msbBits k c).foldl (lfsrStep g) (c <<< (w - k)) = 0 := by
  induction k with
  | zero => simp [msbBits]
  | succ k ih =>
    have hbit : (c <<< (w - (k + 1))).getLsbD (w - 1) = c.getLsbD k := by
      have h1 : w - 1 < w := by omega
      have h2 : ¬ w - 1 < w - (k + 1) := by omega
      have h3 : w - 1 - (w - (k + 1)) = k := by omega
      rw [BitVec.getLsbD_shiftLeft, h3]
      simp [h1, h2]
    have hshift : w - (k + 1) + 1 = w - k := by omega
    rw [msbBits_succ, List.foldl_cons, ← hbit, lfsrStep_highest_bit, ← BitVec.shiftLeft_add, hshift]
    exact ih (by omega)

theorem crc32_append (bs cs : List Bool) : crc32 (bs ++ cs) = cs.foldl crcStep (crc32 bs) := List.foldl_append

/-- Settles O38: CRC-32 is the register of width 32, preset to all ones; fed its own bits it shifts them out. -/
theorem crcResidualIsZero : Obligations.CrcResidualIsZero := by
  refine fun bs => ⟨?_, ?_⟩
  · have hpreset : natPoly 0xFFFFFFFF = _ := natPoly_toNat 0xFFFFFFFF#32
    have hmodulus : natPoly 0x04C11DB7 = _ := natPoly_toNat 0x04C11DB7#32
    rw [hpreset, hmodulus, crc32, crcStep_eq_lfsrStep]
    exact modByMonic_lfsrModulus (n := 31) 0x04C11DB7#32 0xFFFFFFFF#32 bs
  · have hempty := foldl_lfsrStep_msbBits 0x04C11DB7#32 (crc32 bs) (Nat.le_refl 32)
    rw [Nat.sub_self, BitVec.shiftLeft_zero] at hempty
    rw [crc32_append, crcStep_eq_lfsrStep]
    exact hempty

end Sys2Proof.Proofs

/-! The BCH family (42_bch.md): the readback of the generator, BCH_ENCODE, the parity as the remainder that the feedback
register computes, its linearity, and the generator as a product over GF(2). -/

namespace Sys2Proof.Proofs

open Sys2Proof Sys2Proof.Machine Sys2Proof.Claims

/-! ### The generator's readback (42_bch.md R192) -/

theorem targetOf_bchGen {w : Nat} (hw : w < 6) : targetOf (0x00060 + 4 * w) = .bchGen w := by
  simp (disch := omega) only [targetOf, if_neg, if_pos, Nat.add_sub_cancel_left, Nat.mul_div_cancel_left]

/-- Word w holds bits 160 - 32w on of `GEN * 2^24`, whose low 24 bits are 0. -/
theorem getLsbD_bchGenWord (gen : BitVec 168) (w : Nat) {b : Nat} (hb : b < 32) :
    (bchGenWord gen w).getLsbD b =
      (decide (24 ≤ 160 - 32 * w + b) && gen.getLsbD (160 - 32 * w + b - 24)) := by
  have h1 : 160 - 32 * w + b < 192 := by omega
  have h2 : 160 - 32 * w + b - 24 < 192 := by omega
  rw [bchGenWord, BitVec.getLsbD_extractLsb', BitVec.getLsbD_shiftLeft, BitVec.getLsbD_setWidth]
  simp [hb, h1, h2, ← decide_not]

/-- Settles O24: the six words are read-only targets. -/
theorem generatorReadback : Obligations.GeneratorReadback := by
  intro s w hb hw
  have hbus := fun v => idle_readsWord_hostWrites v hb (by omega) (by omega) (targetOf_bchGen hw)
  exact ⟨fun v => (hbus v).2, _, (hbus 0).1, fun b hb => getLsbD_bchGenWord s.store.gen w hb⟩

/-! ### BCH_ENCODE (42_bch.md R194) -/

/-- Both forms of BCH_ENCODE need CONFIGURED and run BCH_ENCODE's body (30_encoding.md R112, R113). -/
theorem bchOf_runs_bchBody (r : Rec) : bchOf r ≠ .configure ∧ needsConfig (bchOf r) = true ∧
    bodyOf (bchOf r) = bchBody r ∧ IsCommand (bchOf r) (tableWord (bchOf r)) [4] := by
  cases r <;> exact ⟨nofun, rfl, rfl, isCommand_of_codes fun _ => rfl⟩

/-- The parity of an accepted configuration ends at K_LDPC, inside the frame buffer. -/
theorem kLdpc_of_inv {s : State} (hs : s.Inv) (hc : s.configured = true) (r : Rec) :
    (s.store.dp.recs.get r).kLdpc = (s.store.dp.recs.get r).kBch + 168 ∧
      (s.store.dp.recs.get r).kBch + 168 ≤ nMax := by
  rw [recs_of_inv hs hc r]
  exact ⟨rfl, (accepted_message_fits (accepted_of_inv hs hc) r).2⟩

/-- Settles O40: the checked read answers the message or its lowest bad bit, and the parity stands behind it. -/
theorem bchEncodeAppendsTheParity : Obligations.BchEncodeAppendsTheParity := by
  intro r s
  obtain ⟨hne, hneeds, hbody, hcmd⟩ := bchOf_runs_bchBody r
  refine ⟨by cases r <;> exact hcmd, exec_of_not_configured hneeds, fun hc hcur => ?_, fun hs hc hcur => ?_⟩
  · have herr : bodyOf (bchOf r) s = .error (.len _) := hbody ▸ bchBody_error.2 (.inl ⟨hcur, rfl⟩)
    exact endsInError_of_body_error hne (fun _ => hc) herr
  · obtain ⟨hk, hfit⟩ := kLdpc_of_inv hs hc r
    obtain ⟨⟨hfb, -⟩, -⟩ := hs
    refine ⟨reportsFirstBadBit_of_body hne (fun _ => hc) hfb fun e he => ?_, fun ms hl hm => ?_⟩
    · exact hbody ▸ bchBody_error.2 (.inr ⟨hcur, he⟩)
    · have hread := (readBits_ok hfb).2 ⟨hl, hm⟩
      have hok : bodyOf (bchOf r) s = .ok _ := hbody ▸ bchBody_ok.2 ⟨hcur, ms, hread, rfl⟩
      refine ⟨_, exec_of_body_ok hne (fun _ => hc) hok, rfl, (toNat_cursor_of_le hfit).trans hk.symm,
        fun j hj => elem_writeBits_msbBits s.fb _ hj hfit, fun j hj => ?_⟩
      exact Memory.elem_writeBits_outside s.fb (by rwa [length_bchParity])

/-! ### The parity as a remainder (42_bch.md R193) -/

theorem bchStep_eq_lfsrStep (gen : BitVec 168) : bchStep gen = lfsrStep gen := by
  funext reg m
  rw [bchStep, lfsrStep, Bool.xor_comm]

/-- The encoder's register divides by g from the empty register. -/
theorem bchRegister_eq_foldl (gen : BitVec 168) (ms : List Bool) :
    bchRegister gen ms = ms.foldl (lfsrStep gen) 0 := by
  rw [bchRegister, bchStep_eq_lfsrStep]

/-- Over GF(2) adding the remainder subtracts it. -/
theorem dvd_add_modByMonic (p q : Polynomial (ZMod 2)) : q ∣ p + p %ₘ q := by
  rw [← CharTwo.sub_eq_add]
  exact dvd_sub_comm.1 (Polynomial.dvd_modByMonic_sub p q)

/-- From the empty register, the register after `bs` is the remainder of `bs * x^w`, which completes a multiple of the
modulus. The width is a variable: instances of polynomial arithmetic at a numeral `x^168` are costly to compare. -/
theorem foldl_lfsrStep_isRemainder {w : Nat} (hw : 0 < w) (g : BitVec w) (bs : List Bool) :
    let m := Polynomial.X ^ w + seqPoly (msbBits w g)
    (seqPoly bs * Polynomial.X ^ w) %ₘ m = seqPoly (msbBits w (bs.foldl (lfsrStep g) 0)) ∧
      m ∣ seqPoly bs * Polynomial.X ^ w + seqPoly (msbBits w (bs.foldl (lfsrStep g) 0)) := by
  obtain ⟨n, rfl⟩ := Nat.exists_eq_add_one.2 hw
  have hempty : seqPoly (msbBits (n + 1) (0 : BitVec (n + 1))) = 0 := by simp [seqPoly_msbBits_eq_sum]
  have hmod := modByMonic_lfsrModulus g 0 bs
  rw [hempty, zero_mul, zero_add] at hmod
  exact ⟨hmod, hmod ▸ dvd_add_modByMonic _ (lfsrModulus g)⟩

/-- Settles O41: the parity is the register that divides by `x^168 + GEN`. -/
theorem bchParityIsThePolynomialRemainder : Obligations.BchParityIsThePolynomialRemainder := by
  intro gen ms
  rw [bchParity, nBchParity, bchRegister_eq_foldl]
  exact foldl_lfsrStep_isRemainder (by decide) gen ms

/-! ### Linearity of the feedback register (42_bch.md R195) -/

section
variable {w : Nat} (g : BitVec w)

/-- A step shifts, and adds `g` where the feedback bit is 1. -/
theorem lfsrStep_eq_xor (c : BitVec w) (b : Bool) :
    lfsrStep g c b = c <<< 1 ^^^ if c.getLsbD (w - 1) ^^ b then g else 0 := by
  unfold lfsrStep
  split <;> simp

theorem ite_xor_eq_xor (a b : Bool) : (if a ^^ b then g else 0) = (if a then g else 0) ^^^ if b then g else 0 := by
  cases a <;> cases b <;> simp

theorem lfsrStep_xor (c d : BitVec w) (a b : Bool) :
    lfsrStep g (c ^^^ d) (a ^^ b) = lfsrStep g c a ^^^ lfsrStep g d b := by
  simp only [lfsrStep_eq_xor, BitVec.getLsbD_xor, BitVec.shiftLeft_xor_distrib, ite_xor_eq_xor]
  ac_rfl

theorem foldl_lfsrStep_xor {ms ms' : List Bool} (h : ms.length = ms'.length) (c d : BitVec w) :
    (List.zipWith (fun a b => a ^^ b) ms ms').foldl (lfsrStep g) (c ^^^ d) =
      ms.foldl (lfsrStep g) c ^^^ ms'.foldl (lfsrStep g) d := by
  induction ms generalizing ms' c d with
  | nil =>
    obtain rfl := List.length_eq_zero_iff.1 h.symm
    rfl
  | cons m ms ih =>
    cases ms' with
    | nil => cases h
    | cons m' ms' =>
      simp only [List.zipWith_cons_cons, List.foldl_cons, lfsrStep_xor]
      exact ih (by simpa using h) _ _

/-- An empty register stays empty while it is fed zeros. -/
theorem foldl_lfsrStep_zeros (k : Nat) : (List.replicate k false).foldl (lfsrStep g) 0 = 0 := by
  induction k with
  | zero => rfl
  | succ k ih =>
    rw [List.replicate_succ, List.foldl_cons]
    simpa [lfsrStep] using ih

/-- Where `g` has constant term 1, the feedback bit becomes bit 0. -/
theorem getLsbD_zero_lfsrStep {g : BitVec w} (hg : g.getLsbD 0 = true) (c : BitVec w) (b : Bool) :
    (lfsrStep g c b).getLsbD 0 = (c.getLsbD (w - 1) ^^ b) := by
  rw [lfsrStep_eq_xor, BitVec.getLsbD_xor]
  cases c.getLsbD (w - 1) ^^ b <;> simp [hg]

theorem lfsrStep_zero_true_ne_zero {g : BitVec w} (hg : g.getLsbD 0 = true) : lfsrStep g 0 true ≠ 0 := by
  intro h
  have hbit := getLsbD_zero_lfsrStep hg 0 true
  rw [h] at hbit
  simp at hbit

/-- A step that is fed a 0 loses no 1: the highest bit comes back as the feedback bit. -/
theorem lfsrStep_false_ne_zero {g c : BitVec w} (hg : g.getLsbD 0 = true) (hc : c ≠ 0) :
    lfsrStep g c false ≠ 0 := by
  intro h
  have htop : c.getLsbD (w - 1) = false := by simpa [h] using (getLsbD_zero_lfsrStep hg c false).symm
  have hshift : c <<< 1 = 0 := by simpa [lfsrStep, htop] using h
  refine hc (BitVec.eq_of_getLsbD_eq fun i hi => ?_)
  by_cases hlast : i = w - 1
  · simpa [hlast] using htop
  · have hbit := congrArg (BitVec.getLsbD · (i + 1)) hshift
    have hlt : i + 1 < w := by omega
    simpa [BitVec.getLsbD_shiftLeft, hlt, hi] using hbit

theorem foldl_lfsrStep_zeros_ne_zero {g c : BitVec w} (hg : g.getLsbD 0 = true) (hc : c ≠ 0) (k : Nat) :
    (List.replicate k false).foldl (lfsrStep g) c ≠ 0 := by
  induction k generalizing c with
  | zero => exact hc
  | succ k ih => exact ih (lfsrStep_false_ne_zero hg hc)

end

/-! ### Linearity of the parity -/

theorem bchRegister_xor (gen : BitVec 168) {ms ms' : List Bool} (h : ms.length = ms'.length) :
    bchRegister gen (List.zipWith (fun a b => a ^^ b) ms ms') = bchRegister gen ms ^^^ bchRegister gen ms' := by
  simp only [bchRegister_eq_foldl, ← foldl_lfsrStep_xor gen h]
  rfl

theorem bchRegister_zeros (gen : BitVec 168) (k : Nat) : bchRegister gen (List.replicate k false) = 0 := by
  rw [bchRegister_eq_foldl, foldl_lfsrStep_zeros]

/-- Zeros before the message leave its register as it is. -/
theorem bchRegister_zeros_append (gen : BitVec 168) (k : Nat) (ms : List Bool) :
    bchRegister gen (List.replicate k false ++ ms) = bchRegister gen ms := by
  rw [bchRegister, List.foldl_append]
  exact congrArg (List.foldl (bchStep gen) · ms) (bchRegister_zeros gen k)

/-- The message of length n whose only 1 is bit k. -/
def singleBit (n k : Nat) : List Bool := (List.replicate n false).set k true

theorem set_not_eq_xor_singleBit {ms : List Bool} {k : Nat} (h : k < ms.length) :
    ms.set k (!ms[k]) = List.zipWith (fun a b => a ^^ b) ms (singleBit ms.length k) := by
  refine List.ext_getElem (by simp [singleBit]) fun j hj _ => ?_
  rw [List.getElem_set, List.getElem_zipWith]
  by_cases hk : k = j
  · subst hk
    simp [singleBit]
  · simp [singleBit, hk]

theorem bchRegister_singleBit (gen : BitVec 168) {n k : Nat} (h : k < n) :
    bchRegister gen (singleBit n k) = bchRegister gen (true :: List.replicate (n - 1 - k) false) := by
  have hlen : n - (k + 1) = n - 1 - k := by omega
  rw [singleBit, List.set_eq_take_append_cons_drop, if_pos (by simpa using h), List.take_replicate,
    List.drop_replicate, bchRegister_zeros_append, hlen]

/-- With constant term 1 the register of a message whose first bit is its only 1 is not empty. -/
theorem bchRegister_true_zeros_ne_zero {gen : BitVec 168} (hg : gen.getLsbD 0 = true) (n : Nat) :
    bchRegister gen (true :: List.replicate n false) ≠ 0 := by
  rw [bchRegister_eq_foldl, List.foldl_cons]
  exact foldl_lfsrStep_zeros_ne_zero hg (lfsrStep_zero_true_ne_zero hg) n

theorem msbBits_injective {w : Nat} {u v : BitVec w} (h : msbBits w u = msbBits w v) : u = v := by
  refine BitVec.eq_of_getLsbD_eq fun i hi => ?_
  have hbit : w - 1 - (w - 1 - i) = i := by omega
  have hj : w - 1 - i < w := by omega
  have hget := List.getElem_of_eq h (i := w - 1 - i) (by simpa using hj)
  rwa [getElem_msbBits, getElem_msbBits, hbit] at hget

theorem msbBits_zero {w : Nat} (n : Nat) : msbBits n (0 : BitVec w) = List.replicate n false := by
  simp [msbBits]

/-- Settles O42: a flip adds the message whose only 1 is the bit flipped, and its register is not empty. -/
theorem bchParityIsLinear : Obligations.BchParityIsLinear := by
  refine fun gen => ⟨fun ms ms' h => bchRegister_xor gen h, fun k => ?_, fun ms k h => ?_⟩
  · rw [bchParity, bchRegister_zeros, msbBits_zero, nBchParity]
  · have hflip : bchRegister gen (ms.set k (!ms[k])) =
        bchRegister gen ms ^^^ bchRegister gen (true :: List.replicate (ms.length - 1 - k) false) := by
      rw [set_not_eq_xor_singleBit h, bchRegister_xor gen (by simp [singleBit]), bchRegister_singleBit gen h]
    refine ⟨hflip, fun hg heq => bchRegister_true_zeros_ne_zero hg (ms.length - 1 - k) ?_⟩
    exact (BitVec.xor_right_inj _).1 ((hflip.symm.trans (msbBits_injective heq)).trans BitVec.xor_zero.symm)

/-! ### The generator as a product over GF(2) (42_bch.md R191, 00_scope.md R13) -/

section
open Polynomial

theorem coeff_natPoly (n k : Nat) : (natPoly n).coeff k = if n.testBit k then 1 else 0 := by
  have hlt : n < 2 ^ (n + k + 1) :=
    Nat.lt_two_pow_self.trans_le (Nat.pow_le_pow_right (by decide) (by omega))
  rw [natPoly_eq_sum hlt, finsetSum_coeff, Finset.sum_eq_single_of_mem k (by simp)]
  · split <;> simp
  · intro i _ hi
    split <;> simp [coeff_X_pow, hi.symm]

theorem natPoly_injective : Function.Injective natPoly := by
  intro m n h
  refine Nat.eq_of_testBit_eq fun k => ?_
  have hk := congrArg (coeff · k) h
  simp only [coeff_natPoly] at hk
  revert hk
  cases m.testBit k <;> cases n.testBit k <;> simp

/-- Addition over GF(2) is exclusive or. -/
theorem natPoly_xor (m n : Nat) : natPoly (m ^^^ n) = natPoly m + natPoly n := by
  ext k
  rw [coeff_add]
  simp only [coeff_natPoly, Nat.testBit_xor]
  cases m.testBit k <;> cases n.testBit k <;> simp [CharTwo.add_self_eq_zero]

/-- A left shift multiplies by a power of x. -/
theorem natPoly_shiftLeft (n i : Nat) : natPoly (n <<< i) = natPoly n * X ^ i := by
  ext k
  rw [coeff_mul_X_pow']
  simp only [coeff_natPoly, Nat.testBit_shiftLeft]
  by_cases h : i ≤ k <;> simp [h]

theorem natPoly_one : natPoly 1 = 1 := by
  simp [natPoly_eq_sum (show 1 < 2 ^ 1 by decide)]

/-- The loop of `gf2Mul` adds the multiples of `a` that the bits of `b` select. -/
theorem natPoly_foldl_gf2Mul (a b n : Nat) :
    natPoly ((List.range n).foldl (fun acc i => if b.testBit i then acc ^^^ (a <<< i) else acc) 0) =
      natPoly a * ∑ i ∈ Finset.range n, if b.testBit i then X ^ i else 0 := by
  induction n with
  | zero => simp [natPoly]
  | succ n ih =>
    rw [List.range_succ, List.foldl_append, Finset.sum_range_succ, mul_add, ← ih]
    cases h : b.testBit n <;> simp [h, natPoly_xor, natPoly_shiftLeft]

theorem natPoly_gf2Mul (a b : Nat) : natPoly (gf2Mul a b) = natPoly a * natPoly b :=
  natPoly_foldl_gf2Mul a b (b.log2 + 1)

theorem natPoly_foldl_gf2Mul_eq_prod (a : Nat) (fs : List Nat) :
    natPoly (fs.foldl gf2Mul a) = natPoly a * (fs.map natPoly).prod := by
  induction fs generalizing a with
  | nil => simp
  | cons f fs ih => rw [List.foldl_cons, ih, natPoly_gf2Mul, List.map_cons, List.prod_cons, mul_assoc]

theorem natPoly_bchGenerator (p : Params) : natPoly (bchGenerator p) = (p.bchFactors.map natPoly).prod := by
  rw [bchGenerator, natPoly_foldl_gf2Mul_eq_prod, natPoly_one, one_mul]

end

/-- The order of the factors does not matter, as multiplication of polynomials is commutative. -/
theorem bchGenerator_perm {p : Params} {fs : List Nat} (h : fs.Perm p.bchFactors) :
    bchGenerator { p with bchFactors := fs } = bchGenerator p := by
  apply natPoly_injective
  rw [natPoly_bchGenerator, natPoly_bchGenerator]
  exact (h.map natPoly).prod_eq

/-- Settles O34: the loop multiplies over GF(2), and check 5 gives the product's degree. -/
theorem generatorIsTheProductOfTheFactors : Obligations.GeneratorIsTheProductOfTheFactors := by
  intro p h
  obtain ⟨-, -, hdeg⟩ : CheckHolds 5 p 0 := check5_iff.1 h
  have hne : bchGenerator p ≠ 0 := fun h0 => by simp [h0] at hdeg
  refine ⟨natPoly_bchGenerator p, hdeg ▸ Nat.testBit_log2 hne, fun i hi => ?_, fun fs => bchGenerator_perm⟩
  rw [genOf, BitVec.getLsbD_ofNat, decide_eq_true hi, Bool.true_and]

end Sys2Proof.Proofs

/-! The LDPC family (43_ldpc.md): LDPC_ENCODE, the schedule entry by entry, and the parity's accumulator checks and
linearity. -/

namespace Sys2Proof.Proofs

open Sys2Proof Sys2Proof.Machine Sys2Proof.Claims

/-! ### The schedule (43_ldpc.md R211) -/

/-- Where each element of a list gives `c` entries, entry t of element n stands at place `n * c + t`. -/
theorem getElem?_flatMap_of_length_eq {α β : Type} {f : α → List β} {c : Nat} {l : List α} {n t : Nat} {x : α}
    (hlen : ∀ y, (f y).length = c) (hx : l[n]? = some x) (ht : t < c) :
    (l.flatMap f)[n * c + t]? = (f x)[t]? := by
  induction l generalizing n with
  | nil => cases hx
  | cons y l ih =>
    rw [List.flatMap_cons]
    cases n with
    | zero =>
      obtain rfl : y = x := by simpa using hx
      rw [Nat.zero_mul, Nat.zero_add, List.getElem?_append_left (by rwa [hlen])]
    | succ n =>
      rw [Nat.succ_mul, Nat.add_right_comm, Nat.add_comm, ← hlen y, List.getElem?_append_right (Nat.le_add_right _ _),
        Nat.add_sub_cancel_left, hlen y]
      exact ih hx

section
variable {q pBits : Nat}

theorem getElem?_rowEntries {row : BaseRow} {n t a : Nat} (r : Nat) (hn : n < 360) (ha : row.offsets[t]? = some a) :
    (rowEntries q pBits row r)[n * row.offsets.length + t]? = some ((a + n * q) % pBits, 360 * r + n) := by
  obtain ⟨ht, -⟩ := List.getElem?_eq_some_iff.1 ha
  rw [rowEntries, grp, getElem?_flatMap_of_length_eq (c := row.offsets.length) (by simp [shiftEntries])
    (List.getElem?_range hn) ht, shiftEntries, List.getElem?_map, ha]
  rfl

/-- An entry of row k stands behind the 360 shifts of the rows before it. -/
theorem getElem?_scheduleFrom (r : Nat) {rows : List BaseRow} {k n t a : Nat} {row : BaseRow}
    (hrow : rows[k]? = some row) (hn : n < 360) (ha : row.offsets[t]? = some a) :
    (scheduleFrom q pBits r rows)[360 * ((rows.take k).map fun row => row.offsets.length).sum +
        n * row.offsets.length + t]? = some ((a + n * q) % pBits, 360 * (r + k) + n) := by
  induction rows generalizing r k with
  | nil => cases hrow
  | cons row' rows ih =>
    rw [scheduleFrom]
    cases k with
    | zero =>
      obtain rfl : row' = row := by simpa using hrow
      have hentry := getElem?_rowEntries (q := q) (pBits := pBits) r hn ha
      obtain ⟨hlt, -⟩ := List.getElem?_eq_some_iff.1 hentry
      simpa [List.getElem?_append_left hlt] using hentry
    | succ k =>
      have hentry := ih (r + 1) hrow
      rw [List.take_succ_cons, List.map_cons, List.sum_cons, Nat.mul_add, Nat.add_assoc, Nat.add_assoc,
        ← Nat.add_assoc (360 * _) (n * _) t, List.getElem?_append_right (by simp [length_rowEntries, grp]),
        length_rowEntries, grp, Nat.add_sub_cancel_left, hentry, Nat.add_right_comm, Nat.add_assoc]

/-- Every entry is one of a row, a shift and an offset. -/
theorem mem_scheduleFrom {r : Nat} {rows : List BaseRow} {e : Nat × Nat} (he : e ∈ scheduleFrom q pBits r rows) :
    ∃ k < rows.length, ∃ n < 360, ∃ x, e = (x % pBits, 360 * (r + k) + n) := by
  induction rows generalizing r with
  | nil => cases he
  | cons row rows ih =>
    rcases List.mem_append.1 he with hrow | hrows
    · obtain ⟨n, hn, hshift⟩ := List.mem_flatMap.1 hrow
      obtain ⟨a, -, rfl⟩ := List.mem_map.1 hshift
      exact ⟨0, by simp, n, List.mem_range.1 hn, _, rfl⟩
    · obtain ⟨k, hk, n, hn, x, rfl⟩ := ih hrows
      exact ⟨k + 1, by simpa using hk, n, hn, x, by rw [Nat.add_right_comm r 1 k, Nat.add_assoc]⟩

end

/-- A row of a well-formed table has as many offsets as its count says. -/
theorem sum_offsets_eq_sum_counts {rows : List BaseRow} (h : ∀ row ∈ rows, row.offsets.length = row.count) :
    (rows.map fun row => row.offsets.length).sum = (rows.map BaseRow.count).sum :=
  congrArg List.sum (List.map_congr_left h)

theorem sum_counts_le {rows : List BaseRow} {c : Nat} (h : ∀ row ∈ rows, row.count ≤ c) :
    (rows.map BaseRow.count).sum ≤ rows.length * c := by
  simpa using List.sum_le_card_nsmul (rows.map BaseRow.count) c (List.forall_mem_map.2 h)

/-- 43_ldpc.md R210, R211: the row of a message bit has an offset, and its shift gives the bit an entry. -/
theorem exists_entry_of_message_bit {q pBits : Nat} {rows : List BaseRow} (h : ∀ row ∈ rows, row.offsets ≠ [])
    {m : Nat} (hm : m / 360 < rows.length) : ∃ e ∈ scheduleFrom q pBits 0 rows, e.2 = m := by
  have hpos := List.length_pos_of_ne_nil (h _ (List.getElem_mem hm))
  have hentry := getElem?_scheduleFrom (q := q) (pBits := pBits) 0 (List.getElem?_eq_getElem hm)
    (Nat.mod_lt m (by decide)) (List.getElem?_eq_getElem hpos)
  refine ⟨_, List.mem_of_getElem? hentry, ?_⟩
  simpa using Nat.div_add_mod m 360

/-- Settles O35: the entries of rows, shifts and offsets in order; check 6 bounds the rows and their counts. -/
theorem scheduleEntriesInOrder : Obligations.ScheduleEntriesInOrder := by
  intro p r h
  obtain ⟨hmod, hmax, hlt, -, hrows, hwf⟩ := (check6_iff (cfg := 0)).1 h r
  have hcount : ∀ row ∈ p.ldpcBase.get r, row.offsets.length = row.count := fun row hr => by
    obtain ⟨-, -, hl, -⟩ := hwf row hr
    exact hl
  have hk : 360 * (p.ldpcBase.get r).length = kLdpcOf p r := by
    rw [hrows]
    exact Nat.mul_div_cancel' (Nat.dvd_of_mod_eq_zero hmod)
  have hlen : (scheduleOf p r).length = 360 * ((p.ldpcBase.get r).map BaseRow.count).sum := by
    rw [scheduleOf, length_scheduleFrom, sum_offsets_eq_sum_counts hcount, grp]
  have hsum := sum_counts_le fun row hr => by
    obtain ⟨-, h12, -⟩ := hwf row hr
    exact h12
  refine ⟨hlen, by omega, fun k n t row a hrow hn ha => ?_, fun e he => ?_, fun m hm => ?_⟩
  · rw [← sum_offsets_eq_sum_counts fun row hr => hcount row (List.mem_of_mem_take hr),
      ← hcount row (List.mem_of_getElem? hrow), scheduleOf, getElem?_scheduleFrom 0 hrow hn ha, Nat.zero_add]
  · obtain ⟨k, hkr, n, hn, x, rfl⟩ := mem_scheduleFrom he
    exact ⟨Nat.mod_lt _ (pBitsOf_pos_iff.2 hlt), by dsimp only; omega⟩
  · refine exists_entry_of_message_bit (fun row hr hnil => ?_) (by omega)
    obtain ⟨hpos, -, hl, -⟩ := hwf row hr
    rw [hnil, List.length_nil] at hl
    omega

/-! ### LDPC_ENCODE (43_ldpc.md R214) -/

/-- Both forms of LDPC_ENCODE need CONFIGURED and run LDPC_ENCODE's body (30_encoding.md R112, R113). -/
theorem ldpcOf_runs_ldpcBody (r : Rec) : ldpcOf r ≠ .configure ∧ needsConfig (ldpcOf r) = true ∧
    bodyOf (ldpcOf r) = ldpcBody r ∧ IsCommand (ldpcOf r) (tableWord (ldpcOf r)) [5] := by
  cases r <;> exact ⟨nofun, rfl, rfl, isCommand_of_codes fun _ => rfl⟩

/-- The codeword of an accepted configuration has N_LDPC_SIG bits, inside the frame buffer. -/
theorem nLdpcSig_of_inv {s : State} (hs : s.Inv) (hc : s.configured = true) (r : Rec) :
    (s.store.dp.recs.get r).kLdpc + (s.store.dp.recs.get r).pBits = s.params.nLdpcSig ∧
      s.params.nLdpcSig ≤ nMax := by
  rw [recs_of_inv hs hc r]
  obtain ⟨hn, -, -, hmax⟩ := accepted_sizes (accepted_of_inv hs hc) r
  exact ⟨hn, hmax⟩

/-- Settles O43: the checked read answers the message or its lowest bad bit, and the parity stands behind it. -/
theorem ldpcEncodeAppendsTheParity : Obligations.LdpcEncodeAppendsTheParity := by
  intro r s
  obtain ⟨hne, hneeds, hbody, hcmd⟩ := ldpcOf_runs_ldpcBody r
  refine ⟨by cases r <;> exact hcmd, exec_of_not_configured hneeds, fun hc hcur => ?_, fun hs hc hcur => ?_⟩
  · have herr : bodyOf (ldpcOf r) s = .error (.len _) := hbody ▸ ldpcBody_error.2 (.inl ⟨hcur, rfl⟩)
    exact endsInError_of_body_error hne (fun _ => hc) herr
  · obtain ⟨hn, hfit⟩ := nLdpcSig_of_inv hs hc r
    obtain ⟨⟨hfb, -⟩, -⟩ := hs
    refine ⟨reportsFirstBadBit_of_body hne (fun _ => hc) hfb fun e he => ?_, fun ms hl hm => ?_⟩
    · exact hbody ▸ ldpcBody_error.2 (.inr ⟨hcur, he⟩)
    · have hread := (readBits_ok hfb).2 ⟨hl, hm⟩
      have hok : bodyOf (ldpcOf r) s = .ok _ := hbody ▸ ldpcBody_ok.2 ⟨hcur, ms, hread, rfl⟩
      refine ⟨_, exec_of_body_ok hne (fun _ => hc) hok, rfl, (toNat_cursor_of_le (hn ▸ hfit)).trans hn,
        holdsBits_writeBits s.fb (by rwa [length_ldpcParity, hn]), fun j hj => ?_⟩
      exact Memory.elem_writeBits_outside s.fb (by rwa [length_ldpcParity])

/-! ### The accumulator (43_ldpc.md R214, R215) -/

/-- A bit of the accumulated sequence is the parity of the entries that name it with a message bit 1. -/
theorem getD_foldl_accumulate (sched : List (Nat × Nat)) (ms : List Bool) {p : List Bool} {j : Nat}
    (hj : j < p.length) :
    (sched.foldl (accumulateEntry ms) p).getD j false =
      (p.getD j false ^^
        decide ((sched.filter (fun e => decide (e.1 = j) && ms.getD e.2 false)).length % 2 = 1)) := by
  induction sched generalizing p with
  | nil => simp
  | cons e sched ih =>
    have hstep : (accumulateEntry ms p e).getD j false =
        (p.getD j false ^^ (decide (e.1 = j) && ms.getD e.2 false)) := by
      by_cases he : e.1 = j <;> simp [accumulateEntry, List.getD_eq_getElem?_getD, he, hj]
    rw [List.foldl_cons, ih (by simpa [accumulateEntry] using hj), hstep, List.filter_cons, Bool.xor_assoc]
    congr 1
    cases decide (e.1 = j) && ms.getD e.2 false
    · simp
    · simp [Nat.succ_mod_two_eq_one_iff, ← decide_not]

theorem getD_accumulate (sched : List (Nat × Nat)) (ms : List Bool) {pBits j : Nat} (hj : j < pBits) :
    (accumulate sched ms pBits).getD j false =
      decide ((sched.filter (fun e => decide (e.1 = j) && ms.getD e.2 false)).length % 2 = 1) := by
  rw [accumulate, getD_foldl_accumulate sched ms (by simpa using hj)]
  simp [List.getD_eq_getElem?_getD, hj]

/-- Integration is undone by adding to each bit the one before it. -/
theorem integrate_xor_previous (prev : Bool) {bs : List Bool} {j : Nat} (hj : j < bs.length) :
    ((integrate prev bs).getD j false ^^ (prev :: integrate prev bs).getD j false) = bs.getD j false := by
  induction bs generalizing prev j with
  | nil => cases hj
  | cons b bs ih =>
    cases j with
    | zero => simp [integrate]
    | succ j => simpa [integrate] using ih (b ^^ prev) (by simpa using hj)

/-! ### Linearity of the parity (43_ldpc.md R215) -/

theorem getD_zipWith_xor {ms ms' : List Bool} (h : ms.length = ms'.length) (k : Nat) :
    (List.zipWith (fun a b => a ^^ b) ms ms').getD k false = (ms.getD k false ^^ ms'.getD k false) := by
  by_cases hk : k < ms.length
  · simp [List.getD_eq_getElem?_getD, hk, h ▸ hk]
  · simp [List.getD_eq_getElem?_getD, hk, h ▸ hk]

theorem xor_xor_xor_comm (a b c d : Bool) : ((a ^^ b) ^^ (c ^^ d)) = ((a ^^ c) ^^ (b ^^ d)) := by
  rw [Bool.xor_assoc, Bool.xor_left_comm b, ← Bool.xor_assoc]

theorem integrate_xor (a b : Bool) (ps qs : List Bool) :
    integrate (a ^^ b) (List.zipWith (fun a b => a ^^ b) ps qs) =
      List.zipWith (fun a b => a ^^ b) (integrate a ps) (integrate b qs) := by
  induction ps generalizing a b qs with
  | nil => rfl
  | cons p ps ih =>
    cases qs with
    | nil => rfl
    | cons q qs =>
      simp only [List.zipWith_cons_cons, integrate, xor_xor_xor_comm p q, ih]

theorem accumulateEntry_xor {ms ms' : List Bool} (h : ms.length = ms'.length) (ps qs : List Bool) (e : Nat × Nat) :
    accumulateEntry (List.zipWith (fun a b => a ^^ b) ms ms') (List.zipWith (fun a b => a ^^ b) ps qs) e =
      List.zipWith (fun a b => a ^^ b) (accumulateEntry ms ps e) (accumulateEntry ms' qs e) := by
  refine List.ext_getElem (by simp [accumulateEntry]) fun j _ _ => ?_
  simp only [accumulateEntry, getD_zipWith_xor h, List.getElem_modify, List.getElem_zipWith]
  split
  · exact xor_xor_xor_comm _ _ _ _
  · rfl

theorem foldl_accumulateEntry_xor (sched : List (Nat × Nat)) {ms ms' : List Bool} (h : ms.length = ms'.length)
    (ps qs : List Bool) :
    sched.foldl (accumulateEntry (List.zipWith (fun a b => a ^^ b) ms ms'))
        (List.zipWith (fun a b => a ^^ b) ps qs) =
      List.zipWith (fun a b => a ^^ b) (sched.foldl (accumulateEntry ms) ps)
        (sched.foldl (accumulateEntry ms') qs) := by
  induction sched generalizing ps qs with
  | nil => rfl
  | cons e sched ih => simp only [List.foldl_cons, accumulateEntry_xor h, ih]

theorem ldpcParity_xor (sched : List (Nat × Nat)) (pBits : Nat) {ms ms' : List Bool} (h : ms.length = ms'.length) :
    ldpcParity sched (List.zipWith (fun a b => a ^^ b) ms ms') pBits =
      List.zipWith (fun a b => a ^^ b) (ldpcParity sched ms pBits) (ldpcParity sched ms' pBits) := by
  have hzero : List.replicate pBits false =
      List.zipWith (fun a b => a ^^ b) (List.replicate pBits false) (List.replicate pBits false) := by simp
  rw [ldpcParity, accumulate, hzero, foldl_accumulateEntry_xor sched h]
  exact integrate_xor false false _ _

theorem zipWith_xor_self (bs : List Bool) :
    List.zipWith (fun a b => a ^^ b) bs bs = List.replicate bs.length false := by
  simp [List.zipWith_self]

/-- The zero message is its own sum with itself, so its parity is a sequence added to itself. -/
theorem ldpcParity_zeros (sched : List (Nat × Nat)) (pBits k : Nat) :
    ldpcParity sched (List.replicate k false) pBits = List.replicate pBits false := by
  have hsum := ldpcParity_xor sched pBits (Eq.refl (List.replicate k false).length)
  rwa [zipWith_xor_self, zipWith_xor_self, List.length_replicate, length_ldpcParity] at hsum

/-- Settles O44: each check undoes the integration and counts the entries that were accumulated. -/
theorem ldpcParityMeetsItsChecks : Obligations.LdpcParityMeetsItsChecks := by
  refine fun sched pBits => ⟨fun ms => ⟨length_ldpcParity sched ms pBits, fun j hj => ?_⟩,
    fun ms ms' => ldpcParity_xor sched pBits, ldpcParity_zeros sched pBits⟩
  have hprev : (decide (0 < j) && (ldpcParity sched ms pBits).getD (j - 1) false) =
      (false :: ldpcParity sched ms pBits).getD j false := by cases j <;> simp
  rw [hprev, ← getD_accumulate sched ms hj]
  exact integrate_xor_previous false (by simpa [accumulate, length_foldl_accumulate] using hj)

end Sys2Proof.Proofs

/-! The puncturing family (44_puncture.md): the removed parity bits and their number, PUNCTURE, and the lengths it
leaves. -/

namespace Sys2Proof.Proofs

open Sys2Proof Sys2Proof.Machine Sys2Proof.Claims

/-! ### The groups of the parity region (44_puncture.md R236) -/

/-- The first `n` members of parity group `g`. -/
def groupMembers (q n g : Nat) : List Nat := (List.range n).map fun x => g + q * x

@[simp] theorem length_groupMembers (q n g : Nat) : (groupMembers q n g).length = n := by
  simp [groupMembers]

/-- Parity bit j is member j / q of group j mod q. -/
theorem mem_groupMembers {q n g j : Nat} (hg : g < q) : j ∈ groupMembers q n g ↔ j % q = g ∧ j / q < n := by
  simp only [groupMembers, List.mem_map, List.mem_range]
  constructor
  · rintro ⟨x, hx, rfl⟩
    have hq : 0 < q := Nat.zero_lt_of_lt hg
    rw [Nat.add_mul_mod_self_left, Nat.mod_eq_of_lt hg, Nat.add_mul_div_left _ _ hq, Nat.div_eq_of_lt hg, Nat.zero_add]
    exact ⟨rfl, hx⟩
  · rintro ⟨rfl, hx⟩
    exact ⟨j / q, hx, Nat.mod_add_div j q⟩

/-- The members of some groups are the bits whose group is one of them. -/
theorem mem_flatMap_groupMembers {q n j : Nat} {gs : List Nat} (hlt : ∀ g ∈ gs, g < q) :
    j ∈ gs.flatMap (groupMembers q n) ↔ j % q ∈ gs ∧ j / q < n := by
  rw [List.mem_flatMap]
  constructor
  · rintro ⟨g, hg, hmem⟩
    obtain ⟨rfl, hx⟩ := (mem_groupMembers (hlt g hg)).1 hmem
    exact ⟨hg, hx⟩
  · rintro ⟨hg, hx⟩
    exact ⟨_, hg, (mem_groupMembers (hlt _ hg)).2 ⟨rfl, hx⟩⟩

theorem groupMembers_nodup {q g : Nat} (n : Nat) (hg : g < q) : (groupMembers q n g).Nodup :=
  List.nodup_range.map fun _ _ h =>
    Nat.eq_of_mul_eq_mul_left (Nat.zero_lt_of_lt hg) (Nat.add_left_cancel h)

theorem groupMembers_sublist {q m n : Nat} (g : Nat) (h : m ≤ n) : (groupMembers q m g).Sublist (groupMembers q n g) :=
  (List.range_sublist.2 h).map _

/-- Distinct groups share no member. -/
theorem flatMap_groupMembers_nodup {q n : Nat} {order : List Nat} (hnodup : order.Nodup) (hlt : ∀ g ∈ order, g < q) :
    (order.flatMap (groupMembers q n)).Nodup := by
  refine List.nodup_flatMap.2 ⟨fun g hg => groupMembers_nodup n (hlt g hg), hnodup.imp_of_mem ?_⟩
  intro g g' hg hg' hne j hj hj'
  obtain ⟨rfl, -⟩ := (mem_groupMembers (hlt g hg)).1 hj
  obtain ⟨heq, -⟩ := (mem_groupMembers (hlt g' hg')).1 hj'
  exact hne heq

/-! ### The removal set (44_puncture.md R237) -/

/-- REMOVED is the members of the first G groups of the order and the first rem members of the group behind them. -/
theorem removedBits_eq (d : RecParams) : removedBits d =
    (d.puncOrder.take (d.nPunc / 360)).flatMap (groupMembers d.q 360) ++
      (d.puncOrder[d.nPunc / 360]?.toList).flatMap (groupMembers d.q (d.nPunc % 360)) := by
  rw [← List.head?_drop, ← List.take_one]
  rfl

/-- The model's test, by the group and the member that parity bit j is. -/
theorem isPunctured_iff {order : List Nat} {q nPunc j : Nat} : isPunctured order q nPunc j = true ↔
    j % q ∈ order.take (nPunc / 360) ∨ order[nPunc / 360]? = some (j % q) ∧ j / q < nPunc % 360 := by
  rw [isPunctured, Bool.or_eq_true, Bool.and_eq_true, List.contains_iff_mem, beq_iff_eq, decide_eq_true_eq]
  rfl

/-- What is removed belongs to the groups of the order, and stands there in the same sequence. -/
theorem removedBits_sublist (d : RecParams) :
    (removedBits d).Sublist (d.puncOrder.flatMap (groupMembers d.q 360)) := by
  have hpart : (((d.puncOrder.drop (d.nPunc / 360)).take 1).flatMap (groupMembers d.q (d.nPunc % 360))).Sublist
      ((d.puncOrder.drop (d.nPunc / 360)).flatMap (groupMembers d.q 360)) :=
    (List.Sublist.flatMap_right _ fun g _ => groupMembers_sublist g (Nat.mod_lt _ (by decide)).le).trans
      ((List.take_sublist 1 _).flatMap _)
  conv_rhs => rw [← List.take_append_drop (d.nPunc / 360) d.puncOrder, List.flatMap_append]
  exact (List.Sublist.refl _).append hpart

/-- The lengths and the puncture order of one record fit together (44_puncture.md R232 to R236): what checks 6 to 9 give
PUNCTURE. -/
structure PunctureFits (d : RecParams) : Prop where
  order_nodup : d.puncOrder.Nodup
  order_lt : ∀ g ∈ d.puncOrder, g < d.q
  groups : d.q * 360 = d.pBits
  enough : d.nPunc ≤ 360 * d.puncOrder.length
  info : d.kSig ≤ d.kBch
  bch : d.kLdpc = d.kBch + 168
  sent : d.kSig + 168 + d.pBits = d.nFec + d.nPunc

/-- Checks 6 to 9 of CONFIGURE (40_control.md R145). -/
theorem accepted_punctureFits {p : Params} {cfg : BitVec 15} (h : failedCheck p cfg = none) (r : Rec) :
    PunctureFits (recParamsOf p cfg r) := by
  obtain ⟨hnodup, hlt⟩ := failedCheck_eq_none_iff.1 h 7 (by decide) (by decide) r
  have h9 : check9 p cfg = true := check9_iff.2 (failedCheck_eq_none_iff.1 h 9 (by decide) (by decide))
  obtain ⟨-, -, -, -, -, -, -, henough, -⟩ := check9_bounds_iff.1 h9 r
  obtain ⟨-, hq, hk, -⟩ := accepted_sizes h r
  obtain ⟨-, -, -, hsum, -⟩ := accepted_lengths h r
  exact ⟨hnodup, hlt, hq, ceilDiv_grp_le_iff.1 henough, hk, rfl, hsum⟩

section
variable {d : RecParams}

theorem removedBits_nodup (h : PunctureFits d) : (removedBits d).Nodup :=
  (removedBits_sublist d).nodup (flatMap_groupMembers_nodup h.order_nodup h.order_lt)

theorem removedBits_lt (h : PunctureFits d) {j : Nat} (hj : j ∈ removedBits d) : j < d.pBits := by
  obtain ⟨hg, hdiv⟩ := (mem_flatMap_groupMembers h.order_lt).1 ((removedBits_sublist d).subset hj)
  rw [← h.groups, Nat.mul_comm]
  exact (Nat.div_lt_iff_lt_mul (Nat.zero_lt_of_lt (h.order_lt _ hg))).1 hdiv

/-- The order has the G groups, and one more if rem is not 0. -/
theorem length_removedBits (h : PunctureFits d) : (removedBits d).length = d.nPunc := by
  have henough := h.enough
  have hwhole : min (d.nPunc / 360) d.puncOrder.length = d.nPunc / 360 := by omega
  have hpart : (d.puncOrder[d.nPunc / 360]?.toList).length * (d.nPunc % 360) = d.nPunc % 360 := by
    by_cases hlt : d.nPunc / 360 < d.puncOrder.length
    · simp [hlt]
    · have hrem : d.nPunc % 360 = 0 := by omega
      simp [hrem]
  simp only [removedBits_eq, List.length_append, List.length_flatMap, length_groupMembers, List.map_const',
    List.sum_replicate_nat, List.length_take, hwhole, hpart]
  omega

/-- The model's test is membership in REMOVED: a parity bit is a member below 360 of its group. -/
theorem isPunctured_iff_mem_removedBits (h : PunctureFits d) {j : Nat} (hj : j < d.pBits) :
    isPunctured d.puncOrder d.q d.nPunc j = true ↔ j ∈ removedBits d := by
  have hdiv : j / d.q < 360 := Nat.div_lt_of_lt_mul (h.groups ▸ hj)
  have hfirst : ∀ g ∈ d.puncOrder.take (d.nPunc / 360), g < d.q := fun g hg =>
    h.order_lt g (List.mem_of_mem_take hg)
  have hnext : ∀ g ∈ d.puncOrder[d.nPunc / 360]?.toList, g < d.q := fun g hg =>
    h.order_lt g (List.mem_of_getElem? (Option.mem_toList.1 hg))
  rw [isPunctured_iff, removedBits_eq, List.mem_append, mem_flatMap_groupMembers hfirst, and_iff_left hdiv,
    mem_flatMap_groupMembers hnext, Option.mem_toList]

end

/-- Settles O46: the removed bits are part of the groups of the order, which are disjoint and lie in the parity
region. -/
theorem removedSetHasNpuncBits : Obligations.RemovedSetHasNpuncBits := by
  intro p cfg r h
  have hfits : PunctureFits ((storeOf p cfg).dp.recs.get r) := by
    simpa only [storeOf, derivedOf, PerRec.get_of] using accepted_punctureFits h r
  exact ⟨removedBits_nodup hfits, length_removedBits hfits, fun j => removedBits_lt hfits⟩

/-! ### The transmitted sequence (44_puncture.md R238) -/

/-- The kept bits of a sequence given by index are those whose index is not punctured. -/
theorem keptFrom_map_range' (order : List Nat) (q nPunc : Nat) (f : Nat → Bool) (j n : Nat) :
    keptFrom order q nPunc j ((List.range' j n).map f) =
      ((List.range' j n).filter fun k => !isPunctured order q nPunc k).map f := by
  induction n generalizing j with
  | zero => rfl
  | succ n ih =>
    rw [List.range'_succ, List.map_cons, keptFrom, ih, List.filter_cons]
    cases isPunctured order q nPunc j <;> rfl

/-- A slice of a sequence, by index. -/
theorem take_drop_eq_map_getD {bs : List Bool} {k n : Nat} (h : k + n ≤ bs.length) :
    (bs.drop k).take n = (List.range n).map fun j => bs.getD (k + j) false := by
  refine List.ext_getElem (by simp; omega) fun j hj _ => ?_
  have hlt : k + j < bs.length := by simp at hj; omega
  simp [List.getD_eq_getElem?_getD, hlt]

section
variable {d : RecParams} {bs : List Bool}

theorem punctured_eq_transmitted (h : PunctureFits d) (hl : bs.length = d.kLdpc + d.pBits) :
    punctured d bs = transmitted d bs := by
  rw [punctured, transmitted, take_drop_eq_map_getD hl.ge, List.range_eq_range', keptFrom_map_range',
    ← List.range_eq_range']
  congr 2
  refine List.filter_congr fun j hj => ?_
  rw [Bool.eq_iff_iff.2 ((isPunctured_iff_mem_removedBits h (List.mem_range.1 hj)).trans List.contains_iff_mem.symm)]

/-- N_punc of the PBITS parity bits are removed. -/
theorem length_kept (h : PunctureFits d) :
    ((List.range d.pBits).filter fun j => !(removedBits d).contains j).length + d.nPunc = d.pBits := by
  have hperm : ((List.range d.pBits).filter (removedBits d).contains).Perm (removedBits d) := by
    refine (List.perm_ext_iff_of_nodup (List.nodup_range.filter _) (removedBits_nodup h)).2 fun j => ?_
    simpa using fun hj => removedBits_lt h hj
  have hsplit := List.length_eq_length_filter_add (l := List.range d.pBits) (removedBits d).contains
  rw [hperm.length_eq, length_removedBits h, List.length_range] at hsplit
  omega

theorem length_transmitted (h : PunctureFits d) (hl : bs.length = d.kLdpc + d.pBits) :
    (transmitted d bs).length = d.nFec := by
  have hkept := length_kept h
  obtain ⟨-, -, -, -, hinfo, hbch, hsent⟩ := h
  simp only [transmitted, List.length_append, List.length_take, List.length_drop, List.length_map]
  omega

end

/-! ### PUNCTURE (44_puncture.md R238, R239) -/

/-- Both forms of PUNCTURE need CONFIGURED and run PUNCTURE's body (30_encoding.md R112, R113). -/
theorem punctureOf_runs_punctureBody (r : Rec) : punctureOf r ≠ .configure ∧ needsConfig (punctureOf r) = true ∧
    bodyOf (punctureOf r) = punctureBody r ∧ IsCommand (punctureOf r) (tableWord (punctureOf r)) [6] := by
  cases r <;> exact ⟨nofun, rfl, rfl, isCommand_of_codes fun _ => rfl⟩

theorem punctureFits_of_inv {s : State} (hs : s.Inv) (hc : s.configured = true) (r : Rec) :
    PunctureFits (s.store.dp.recs.get r) :=
  recs_of_inv hs hc r ▸ accepted_punctureFits (accepted_of_inv hs hc) r

/-- What is transmitted and what is removed make up the codeword (R239). -/
theorem nFec_add_removed {s : State} (hs : s.Inv) (hc : s.configured = true) (r : Rec) :
    (s.store.dp.recs.get r).nFec + ((s.store.dp.recs.get r).kBch - (s.store.dp.recs.get r).kSig +
      (s.store.dp.recs.get r).nPunc) = s.params.nLdpcSig := by
  obtain ⟨-, -, -, -, hinfo, hbch, hsent⟩ := punctureFits_of_inv hs hc r
  obtain ⟨hn, -⟩ := nLdpcSig_of_inv hs hc r
  omega

/-- A successful PUNCTURE's registers hold the lengths of DP, none of which exceeds N_LDPC_SIG. -/
theorem punctureBody_registers {r : Rec} {s u : State} (hs : s.Inv) (hc : s.configured = true)
    (h : punctureBody r s = .ok u) :
    let d := s.store.dp.recs.get r
    u.cursor.toNat = d.nFec ∧ u.puncCount.toNat = d.nPunc ∧ u.removedCount.toNat = (d.kBch - d.kSig) + d.nPunc := by
  obtain ⟨-, bs, -, rfl⟩ := punctureBody_ok.1 h
  have hsum := nFec_add_removed hs hc r
  have hfit : s.params.nLdpcSig ≤ 64800 := (nLdpcSig_of_inv hs hc r).2
  exact ⟨toNat_cursor_of_le (by unfold nMax; omega), (BitVec.toNat_ofNat _ _).trans (Nat.mod_eq_of_lt (by omega)),
    (BitVec.toNat_ofNat _ _).trans (Nat.mod_eq_of_lt (by omega))⟩

/-- Settles O45: the checked read answers the codeword or its lowest bad bit, and the kept bits are those outside
REMOVED. -/
theorem punctureLeavesTheTransmittedSequence : Obligations.PunctureLeavesTheTransmittedSequence := by
  intro r s
  obtain ⟨hne, hneeds, hbody, hcmd⟩ := punctureOf_runs_punctureBody r
  refine ⟨by cases r <;> exact hcmd, exec_of_not_configured hneeds, fun hc hcur => ?_, fun hs hc hcur => ?_⟩
  · have herr : bodyOf (punctureOf r) s = .error (.len _) := hbody ▸ punctureBody_error.2 (.inl ⟨hcur, rfl⟩)
    exact endsInError_of_body_error hne (fun _ => hc) herr
  · have ⟨⟨hfb, _⟩, _⟩ := hs
    refine ⟨reportsFirstBadBit_of_body hne (fun _ => hc) hfb fun e he => ?_, fun bs hl hb => ?_⟩
    · exact hbody ▸ punctureBody_error.2 (.inr ⟨hcur, he⟩)
    · obtain ⟨hn, hfit⟩ := nLdpcSig_of_inv hs hc r
      have hfits := punctureFits_of_inv hs hc r
      have hlen := length_transmitted hfits (hl.trans hn.symm)
      have hsum := nFec_add_removed hs hc r
      have hread := (readBits_ok hfb).2 ⟨hl, hb⟩
      have hok : bodyOf (punctureOf r) s = .ok _ := hbody ▸ punctureBody_ok.2 ⟨hcur, bs, hread, rfl⟩
      rw [punctured_eq_transmitted hfits (hl.trans hn.symm)] at hok
      obtain ⟨hcursor, hpunc, hremoved⟩ := punctureBody_registers hs hc (hbody ▸ hok)
      exact ⟨_, exec_of_body_ok hne (fun _ => hc) hok, rfl, hcursor, hpunc, hremoved, hlen,
        holdsBits_writeBits _ (by omega), fun k hk => Memory.elem_writeBits_outside _ (.inr (by omega))⟩

/-- A command that needs CONFIGURED and ends without an error ran its body to the end. -/
theorem body_ok_of_no_error {i : Instr} {s t : State} (hn : needsConfig i = true)
    (h : exec i s = .next t) (ht : t.err = false) :
    s.configured = true ∧ ∃ u, bodyOf i s = .ok u ∧ t = finish u := by
  cases hc : s.configured with
  | false =>
    cases (exec_of_not_configured hn hc).symm.trans h
    cases ht
  | true =>
    rcases exec_cases i s with ⟨u, hu, hx⟩ | ⟨e, -, hx⟩ | ⟨-, hnot, -⟩
    · cases hx.symm.trans h
      exact ⟨rfl, u, hu, rfl⟩
    · cases hx.symm.trans h
      cases ht
    · cases hc.symm.trans hnot

/-- Settles O47: the registers hold DP's lengths, and DP is that of the parameters and ACTCFG. -/
theorem punctureLengthProperty : Obligations.PunctureLengthProperty := by
  intro r s t hs _ ht herr
  obtain ⟨-, hneeds, hbody, -⟩ := punctureOf_runs_punctureBody r
  obtain ⟨hc, u, hu, rfl⟩ := body_ok_of_no_error hneeds ht herr
  obtain ⟨hcursor, hpunc, hremoved⟩ := punctureBody_registers hs hc (hbody ▸ hu)
  rw [finish_cursor, finish_removedCount, finish_puncCount, hcursor, hremoved, hpunc]
  exact ⟨nFec_add_removed hs hc r, by rw [recs_of_inv hs hc r]; rfl⟩

end Sys2Proof.Proofs

/-! The interleaving family (45_interleave.md): the input positions of the permutation, the frame buffer it leaves, and
both forms of INTERLEAVE. -/

namespace Sys2Proof.Proofs

open Sys2Proof Sys2Proof.Machine Sys2Proof.Claims

/-! ### Input positions (45_interleave.md R263, R264) -/

section
variable {rows columns : Nat} {t : TableSet}

/-- Input positions are filled column by column: column d holds the `rows` positions from `d * rows` on. -/
theorem gridSource_div_mod (hrows : 0 < rows) (r d : Nat) : gridSource rows t r d / rows = d ∧
    gridSource rows t r d % rows = (r + (rows - t.tw.getD d 0 % rows)) % rows := by
  rw [gridSource, Nat.mul_comm, Nat.mul_add_div hrows, Nat.mul_add_mod, Nat.mod_mod,
    Nat.div_eq_of_lt (Nat.mod_lt _ hrows)]
  exact ⟨rfl, rfl⟩

theorem gridSource_lt {r d : Nat} (hrows : 0 < rows) (hd : d < columns) : gridSource rows t r d < rows * columns := by
  rw [Nat.mul_comm, ← Nat.div_lt_iff_lt_mul hrows, (gridSource_div_mod hrows r d).1]
  exact hd

/-- A twist rotates its column, so no two places of the grid take the same position. -/
theorem gridSource_inj {r r' d d' : Nat} (hr : r < rows) (hr' : r' < rows)
    (h : gridSource rows t r d = gridSource rows t r' d') : r = r' ∧ d = d' := by
  have hrows : 0 < rows := Nat.zero_lt_of_lt hr
  obtain ⟨hdiv, hmod⟩ := gridSource_div_mod (t := t) hrows r d
  obtain ⟨hdiv', hmod'⟩ := gridSource_div_mod (t := t) hrows r' d'
  obtain rfl : d = d' := hdiv.symm.trans ((congrArg (· / rows) h).trans hdiv')
  have hcong : r ≡ r' [MOD rows] := Nat.ModEq.add_right_cancel' _ (hmod.symm.trans ((congrArg (· % rows) h).trans hmod'))
  exact ⟨hcong.eq_of_lt_of_lt hr hr', rfl⟩

/-- The model's subtraction of the twist in the natural numbers is R263's in the integers. -/
theorem gridSource_eq_columnSource (hrows : 0 < rows) (r d : Nat) : gridSource rows t r d = columnSource rows t r d := by
  have htw : t.tw.getD d 0 % rows ≤ rows := (Nat.mod_lt _ hrows).le
  have hmod : ((r : Int) - (t.tw.getD d 0 : Nat)) % rows = ((r + (rows - t.tw.getD d 0 % rows) : Nat) : Int) % rows := by
    push_cast [Nat.cast_sub htw]
    rw [← Int.sub_emod_emod, ← Int.add_emod_right]
    congr 1
    omega
  rw [gridSource, columnSource, hmod]
  rfl

/-- Column d of row r goes to place DM[d] of the row. -/
theorem ilSource_place {r d : Nat} (hfit : FitsGrid columns rows t) (hd : d < columns) :
    t.dm.getD d 0 < columns ∧ ilSource rows columns t (r * columns + t.dm.getD d 0) = gridSource rows t r d := by
  obtain ⟨-, -, hdm⟩ := hfit
  have hlen : d < t.dm.length := by simpa [hdm.length_eq] using hd
  have hplace : t.dm[d] < columns := List.mem_range.1 (hdm.subset (List.getElem_mem hlen))
  have hcolumns : 0 < columns := Nat.zero_lt_of_lt hd
  rw [List.getD_eq_getElem _ _ hlen, ilSource, Nat.mul_comm, Nat.mul_add_div hcolumns, Nat.mul_add_mod,
    Nat.div_eq_of_lt hplace, Nat.mod_eq_of_lt hplace, (hdm.nodup_iff.2 List.nodup_range).idxOf_getElem]
  exact ⟨hplace, rfl⟩

/-- Every place of a row is some column's. -/
theorem exists_column_of_place {j : Nat} (hfit : FitsGrid columns rows t) (hcolumns : 0 < columns) :
    ∃ d, d < columns ∧ t.dm.getD d 0 = j % columns := by
  obtain ⟨-, -, hdm⟩ := hfit
  have hmem : j % columns ∈ t.dm := hdm.symm.subset (List.mem_range.2 (Nat.mod_lt _ hcolumns))
  obtain ⟨d, hd, heq⟩ := List.getElem_of_mem hmem
  exact ⟨d, by simpa [hdm.length_eq] using hd, (List.getD_eq_getElem _ _ hd).trans heq⟩

/-- Output position j takes the position of one column of row j / C. -/
theorem ilSource_eq_gridSource {j : Nat} (hfit : FitsGrid columns rows t) (hj : j < rows * columns) :
    j / columns < rows ∧ ∃ d, d < columns ∧ t.dm.getD d 0 = j % columns ∧
      ilSource rows columns t j = gridSource rows t (j / columns) d := by
  have hcolumns : 0 < columns := Nat.pos_of_mul_pos_left (Nat.zero_lt_of_lt hj)
  obtain ⟨d, hd, hplace⟩ := exists_column_of_place (j := j) hfit hcolumns
  obtain ⟨-, hsource⟩ := ilSource_place (r := j / columns) hfit hd
  rw [hplace, Nat.div_add_mod'] at hsource
  exact ⟨(Nat.div_lt_iff_lt_mul hcolumns).2 hj, d, hd, hplace, hsource⟩

theorem ilSource_lt {j : Nat} (hfit : FitsGrid columns rows t) (hj : j < rows * columns) :
    ilSource rows columns t j < rows * columns := by
  obtain ⟨hrow, d, hd, -, hsource⟩ := ilSource_eq_gridSource hfit hj
  exact hsource ▸ gridSource_lt (Nat.zero_lt_of_lt hrow) hd

theorem ilSource_inj {i j : Nat} (hfit : FitsGrid columns rows t) (hi : i < rows * columns) (hj : j < rows * columns)
    (h : ilSource rows columns t i = ilSource rows columns t j) : i = j := by
  obtain ⟨hrow, d, -, hplace, hsource⟩ := ilSource_eq_gridSource hfit hi
  obtain ⟨hrow', d', -, hplace', hsource'⟩ := ilSource_eq_gridSource hfit hj
  obtain ⟨hdiv, rfl⟩ := gridSource_inj hrow hrow' (hsource.symm.trans (h.trans hsource'))
  rw [← Nat.div_add_mod i columns, ← Nat.div_add_mod j columns, hdiv, ← hplace, ← hplace']

end

/-- Settles O50: the input positions are distinct and below R C, and there are R C of them. -/
theorem interleaverIsABijection : Obligations.InterleaverIsABijection := by
  intro rows columns t hwf
  have hfit : FitsGrid columns rows t := tableSetWf_iff.1 hwf
  have hnodup : ((List.range (rows * columns)).map (ilSource rows columns t)).Nodup :=
    List.nodup_range.map_on fun i hi j hj => ilSource_inj hfit (List.mem_range.1 hi) (List.mem_range.1 hj)
  have hsubset : (List.range (rows * columns)).map (ilSource rows columns t) ⊆ List.range (rows * columns) := by
    intro i hi
    obtain ⟨j, hj, rfl⟩ := List.mem_map.1 hi
    exact List.mem_range.2 (ilSource_lt hfit (List.mem_range.1 hj))
  exact (hnodup.subperm hsubset).perm_of_length_le (by simp)

/-! ### The frame buffer after a permutation (45_interleave.md R263, R267) -/

section
variable {m : Memory} {bs : List Bool}

theorem getElem?_interleaved {columns : Nat} {t : TableSet} {j : Nat} (hj : j < bs.length) :
    (interleaved columns t bs)[j]? = some (bs.getD (ilSource (bs.length / columns) columns t j) false) := by
  simp [interleaved, hj]

/-- Writing the permuted bits over the L bits they came from is IL. -/
theorem interleaves_writeBits {columns l : Nat} {t : TableSet} (hfit : FitsGrid columns (l / columns) t)
    (hlen : bs.length = l) (hb : HoldsBits m 0 bs) (hl : l ≤ nMax) :
    Interleaves m (m.writeBits 0 (interleaved columns t bs)) l columns t := by
  subst hlen
  intro r d hr hd
  obtain ⟨hplace, hil⟩ := ilSource_place (r := r) hfit hd
  have hrows : 0 < bs.length / columns := Nat.zero_lt_of_lt hr
  have hgrid : bs.length / columns * columns ≤ bs.length := Nat.div_mul_le_self _ _
  have htarget : r * columns + t.dm.getD d 0 < bs.length := by
    have hrow : (r + 1) * columns ≤ bs.length / columns * columns := Nat.mul_le_mul_right _ hr
    rw [Nat.add_one_mul] at hrow
    omega
  have hsource : gridSource (bs.length / columns) t r d < bs.length := (gridSource_lt hrows hd).trans_le hgrid
  have hbit := getElem?_interleaved (columns := columns) (t := t) htarget
  rw [hil, List.getD_eq_getElem _ _ hsource] at hbit
  have hwrite := elem_writeBits_of_getElem? (m := m) (base := 0) hbit (by omega)
  rw [← gridSource_eq_columnSource hrows]
  simpa using hwrite.trans (hb _ hsource).symm

/-- Bits written over themselves leave every element as it was (R267). -/
theorem elem_writeBits_self (hb : HoldsBits m 0 bs) (hl : bs.length ≤ nMax) (k : Nat) :
    (m.writeBits 0 bs).elem k = m.elem k := by
  by_cases hk : k < bs.length
  · have hwrite := holdsBits_writeBits m (base := 0) (bs := bs) (by omega) k hk
    simpa using hwrite.trans (hb k hk).symm
  · exact Memory.elem_writeBits_outside m (.inr (by omega))

theorem elem_interleavedBy_above (columns : Nat) (t : Option TableSet) {k : Nat} (hk : bs.length ≤ k) :
    (m.writeBits 0 (interleavedBy columns t bs)).elem k = m.elem k :=
  Memory.elem_writeBits_outside m (.inr (by simpa using hk))

end

/-! ### INTERLEAVE.PAY (45_interleave.md R265) -/

section
variable {s : State}

theorem store_of_inv (hs : s.Inv) (hc : s.configured = true) : s.store = storeOf s.params s.actCfg := by
  obtain ⟨-, -, hconfig, -⟩ := hs
  exact (hconfig hc).2

theorem nFrame_of_inv (hs : s.Inv) (hc : s.configured = true) :
    s.store.dp.nFrame = (if s.actCfg.getLsbD 0 then 16200 else 64800) ∧ s.store.dp.nFrame ≤ nMax := by
  rw [store_of_inv hs hc]
  refine ⟨nFrameOf_cfgFsize s.actCfg, ?_⟩
  show nFrameOf (cfgFsize s.actCfg) ≤ nMax
  cases cfgFsize s.actCfg <;> decide

/-- DP holds no table set for a QPSK payload (40_control.md R146). -/
theorem payTables_of_qpsk (hs : s.Inv) (hc : s.configured = true) (hq : payMod s.actCfg = .qpsk) :
    s.store.dp.payTables = none := by
  rw [store_of_inv hs hc]
  exact if_pos hq

/-- DP holds the table set that check 4 found well formed. -/
theorem payTables_of_not_qpsk (hs : s.Inv) (hc : s.configured = true) (hq : payMod s.actCfg ≠ .qpsk) :
    ∃ ts, s.params.tableSet.at (payMod s.actCfg, cfgRate s.actCfg, cfgFsize s.actCfg) = some ts ∧
      s.store.dp.payTables = some ts ∧
      FitsGrid (payCols s.actCfg) (s.store.dp.nFrame / payCols s.actCfg) ts := by
  obtain ⟨ts, hts, hfit⟩ := failedCheck_eq_none_iff.1 (accepted_of_inv hs hc) 4 (by decide) (by decide) hq
  rw [store_of_inv hs hc]
  exact ⟨ts, hts, (if_neg hq).trans hts, hfit⟩

end

/-- Settles O48: the checked read answers the frame or its lowest bad bit; DP holds a table set that fits the frame, or
none for QPSK. -/
theorem interleavePayPermutesTheFrame : Obligations.InterleavePayPermutesTheFrame := by
  refine fun s => ⟨isCommand_of_codes (i := .interleavePay) fun _ => rfl, exec_of_not_configured rfl, fun hs hc => ?_⟩
  obtain ⟨hframe, hmax⟩ := nFrame_of_inv hs hc
  have ⟨⟨hfb, _⟩, _⟩ := hs
  rw [← hframe]
  refine ⟨fun hcur => ?_, fun hcur => ⟨?_, ?_⟩⟩
  · exact endsInError_of_body_error (i := .interleavePay) nofun (fun _ => hc)
      (interleavePayBody_error.2 (.inl ⟨hcur, rfl⟩))
  · exact reportsFirstBadBit_of_body nofun (fun _ => hc) hfb fun e he => interleavePayBody_error.2 (.inr ⟨hcur, he⟩)
  · rintro ⟨bs, hl, hb⟩
    have hok := interleavePayBody_ok.2 ⟨hcur, bs, (readBits_ok hfb).2 ⟨hl, hb⟩, rfl⟩
    refine ⟨_, exec_of_body_ok (i := .interleavePay) nofun (fun _ => hc) hok, rfl, fun hq => ?_, fun hq => ?_,
      fun k hk => elem_interleavedBy_above _ _ (hl.trans_le hk)⟩
    · rw [payTables_of_qpsk hs hc hq]
      exact elem_writeBits_self hb (hl.trans_le hmax)
    · obtain ⟨ts, hts, hdp, hfit⟩ := payTables_of_not_qpsk hs hc hq
      rw [hdp]
      exact ⟨ts, hts, interleaves_writeBits hfit hl hb hmax⟩

/-! ### INTERLEAVE.POST (45_interleave.md R266) -/

section
variable {s : State}

/-- N_FEC is at most N_LDPC_SIG, which lies inside the frame buffer. -/
theorem nFec_le_nMax (hs : s.Inv) (hc : s.configured = true) (r : Rec) : (s.store.dp.recs.get r).nFec ≤ nMax := by
  have hsum := nFec_add_removed hs hc r
  obtain ⟨-, hfit⟩ := nLdpcSig_of_inv hs hc r
  omega

/-- DP holds the L1 table set that check 10 found well formed. -/
theorem l1Tables_of_inv (hs : s.Inv) (hc : s.configured = true) (hl : l1Interleaved s.actCfg = true) :
    ∃ ts, s.params.l1TableSet.at (l1Mod s.actCfg) = some ts ∧ s.store.dp.l1Tables = some ts ∧
      FitsGrid (l1Cols s.actCfg) (s.store.dp.recs.post.nFec / l1Cols s.actCfg) ts := by
  obtain ⟨ts, hts, -, hfit⟩ := failedCheck_eq_none_iff.1 (accepted_of_inv hs hc) 10 (by decide) (by decide)
    (l1Interleaved_iff.1 hl)
  rw [store_of_inv hs hc]
  exact ⟨ts, hts, (if_pos hl).trans hts, hfit⟩

/-- ERR_INFO of ERR_MODE is L1_MOD as a number. -/
theorem info_mode_cfgL1Mod (c : BitVec 15) :
    (CmdError.mode (cfgL1Mod c)).info = BitVec.ofNat 32 (c.toNat / 128 % 16) := by
  rw [← cfgL1Mod_toNat]
  exact (BitVec.ofNat_toNat 32 (cfgL1Mod c)).symm

end

/-- Settles O49: the modulation is looked at first, then CURSOR; the checked read answers the record or its lowest bad
bit, and DP holds a table set that fits it. -/
theorem interleavePostPermutesTheRecord : Obligations.InterleavePostPermutesTheRecord := by
  refine fun s => ⟨isCommand_of_codes (i := .interleavePost) fun _ => rfl, exec_of_not_configured rfl,
    fun hc h2 h3 => ?_, fun hc hmod hcur => ?_, fun hs hc hmod hcur => ⟨?_, ?_⟩⟩
  · have hoff : l1Interleaved s.actCfg = false := by simp [← Bool.not_eq_true, l1Interleaved_iff, h2, h3]
    rw [← info_mode_cfgL1Mod]
    exact endsInError_of_body_error (i := .interleavePost) nofun (fun _ => hc)
      (interleavePostBody_error.2 (.inl ⟨hoff, rfl⟩))
  · exact endsInError_of_body_error (i := .interleavePost) nofun (fun _ => hc)
      (interleavePostBody_error.2 (.inr ⟨l1Interleaved_iff.2 hmod, .inl ⟨hcur, rfl⟩⟩))
  · obtain ⟨⟨hfb, -⟩, -⟩ := hs
    exact reportsFirstBadBit_of_body nofun (fun _ => hc) hfb fun e he =>
      interleavePostBody_error.2 (.inr ⟨l1Interleaved_iff.2 hmod, .inr ⟨hcur, he⟩⟩)
  · rintro ⟨bs, hl, hb⟩
    have hon := l1Interleaved_iff.2 hmod
    have hmax : s.store.dp.recs.post.nFec ≤ nMax := nFec_le_nMax hs hc .post
    obtain ⟨ts, hts, hdp, hfit⟩ := l1Tables_of_inv hs hc hon
    obtain ⟨⟨hfb, -⟩, -⟩ := hs
    have hok := interleavePostBody_ok.2 ⟨hon, hcur, bs, (readBits_ok hfb).2 ⟨hl, hb⟩, rfl⟩
    refine ⟨_, exec_of_body_ok (i := .interleavePost) nofun (fun _ => hc) hok, rfl, ⟨ts, hts, ?_⟩,
      fun k hk => elem_interleavedBy_above _ _ (hl.trans_le hk)⟩
    rw [hdp]
    exact interleaves_writeBits hfit hl hb hmax

end Sys2Proof.Proofs

/-! The mapper family (46_mapper.md): the levels of one axis, the points and the entries of a modulation, and MAP. -/

namespace Sys2Proof.Proofs

open Sys2Proof Sys2Proof.Machine Sys2Proof.Claims

/-! ### The levels of one axis (46_mapper.md R282, R283) -/

/-- The even-numbered bits of a group, which select I, and the odd-numbered bits, which select Q (46_mapper.md R282). -/
def axes : List Bool → List Bool × List Bool
  | [] => ([], [])
  | b :: bs => (b :: (axes bs).2, (axes bs).1)

/-- The coordinate that the bits of one axis select (46_mapper.md R283): each bit is the sign of a power of two plus the
level of the bits behind it. -/
def level : List Bool → Int
  | [] => 0
  | b :: bs => (if b then -1 else 1) * (2 ^ bs.length + level bs)

/-- R282's coordinates are the levels of the two axes; BPSK has no bits on the second. -/
theorem point_eq_levels {m : Modulation} {ys : List Bool} (h : ys.length = eta m) :
    point m ys = (level (axes ys).1, level (axes ys).2) := by
  match m, ys, h with
  | .bpsk, [_], _ => simp [point, signOf, axes, level]
  | .qpsk, [_, _], _ => simp [point, signOf, axes, level]
  | .qam16, [_, _, _, _], _ => simp [point, signOf, axes, level]
  | .qam64, [_, _, _, _, _, _], _ => simp [point, signOf, axes, level]
  | .qam256, [_, _, _, _, _, _, _, _], _ => simp [point, signOf, axes, level]

theorem length_axes (ys : List Bool) :
    (axes ys).1.length = (ys.length + 1) / 2 ∧ (axes ys).2.length = ys.length / 2 := by
  induction ys with
  | nil => exact ⟨rfl, rfl⟩
  | cons y ys ih =>
    obtain ⟨heven, hodd⟩ := ih
    exact ⟨by rw [axes, List.length_cons, List.length_cons, hodd]; omega, heven⟩

theorem level_cons_false (bs : List Bool) : level (false :: bs) = 2 ^ bs.length + level bs := Int.one_mul _

theorem level_cons_true (bs : List Bool) : level (true :: bs) = -(2 ^ bs.length + level bs) := Int.neg_one_mul _

theorem abs_level_lt (bs : List Bool) : |level bs| < 2 ^ bs.length := by
  induction bs with
  | nil => decide
  | cons b bs ih =>
    rw [abs_lt] at ih ⊢
    rw [List.length_cons, pow_succ]
    cases b
    · rw [level_cons_false]; omega
    · rw [level_cons_true]; omega

/-- The bits behind the first never outweigh it, so the first bit is the sign of the level. -/
theorem two_pow_add_level_pos (bs : List Bool) : 0 < 2 ^ bs.length + level bs :=
  neg_lt_iff_pos_add'.1 (abs_lt.1 (abs_level_lt bs)).1

/-- Levels with unequal first bits lie on both sides of 0. -/
theorem level_injective {bs cs : List Bool} (hlen : bs.length = cs.length) (h : level bs = level cs) : bs = cs := by
  induction bs generalizing cs with
  | nil => exact (List.length_eq_zero_iff.1 hlen.symm).symm
  | cons b bs ih =>
    obtain ⟨c, cs, rfl⟩ := List.exists_cons_of_length_eq_add_one hlen.symm
    have htail : bs.length = cs.length := Nat.succ_injective hlen
    have hb := two_pow_add_level_pos bs
    have hc := two_pow_add_level_pos cs
    cases b <;> cases c <;> simp only [level_cons_false, level_cons_true, htail] at h hb
    · rw [ih htail (by omega)]
    · omega
    · omega
    · rw [ih htail (by omega)]

/-! ### The Gray property (46_mapper.md R284) -/

/-- The number of places in which two sequences differ. -/
def differences (bs cs : List Bool) : Nat := (List.zipWith (fun b c => b ^^ c) bs cs).count true

theorem differences_cons (b c : Bool) (bs cs : List Bool) :
    differences (b :: bs) (c :: cs) = differences bs cs + (b ^^ c).toNat := by
  cases b <;> cases c <;> simp [differences]

theorem differences_self (bs : List Bool) : differences bs bs = 0 := by
  rw [differences, zipWith_xor_self]
  simp [List.count_replicate]

theorem length_filter_ne_eq_differences {ys zs : List Bool} (h : ys.length = zs.length) :
    ((List.range ys.length).filter fun j => ys.getD j false != zs.getD j false).length = differences ys zs := by
  rw [← List.countP_eq_length_filter]
  induction ys generalizing zs with
  | nil => rfl
  | cons y ys ih =>
    obtain ⟨z, zs, rfl⟩ := List.exists_cons_of_length_eq_add_one h.symm
    rw [differences_cons, ← ih (Nat.succ_injective h), List.length_cons, List.range_succ_eq_map, List.countP_cons,
      List.countP_map]
    cases y <;> cases z <;> rfl

/-- The two axes share out the bits of a group (46_mapper.md R284). -/
theorem differences_eq_add_axes {ys zs : List Bool} (h : ys.length = zs.length) :
    differences ys zs = differences (axes ys).1 (axes zs).1 + differences (axes ys).2 (axes zs).2 := by
  induction ys generalizing zs with
  | nil => simp [differences, axes]
  | cons y ys ih =>
    obtain ⟨z, zs, rfl⟩ := List.exists_cons_of_length_eq_add_one h.symm
    simp only [axes, differences_cons, ih (Nat.succ_injective h)]
    omega

/-- Adjacent levels differ in one bit: behind equal first bits the levels are adjacent again, and on the two sides of 0
the bits behind the first are the same. -/
theorem differences_of_adjacent_levels {bs cs : List Bool} (hlen : bs.length = cs.length)
    (h : level bs = level cs + 2 ∨ level cs = level bs + 2) : differences bs cs = 1 := by
  induction bs generalizing cs with
  | nil =>
    obtain rfl := List.length_eq_zero_iff.1 hlen.symm
    omega
  | cons b bs ih =>
    obtain ⟨c, cs, rfl⟩ := List.exists_cons_of_length_eq_add_one hlen.symm
    have htail : bs.length = cs.length := Nat.succ_injective hlen
    have hb := two_pow_add_level_pos bs
    have hc := two_pow_add_level_pos cs
    rw [differences_cons]
    cases b <;> cases c <;> simp only [level_cons_false, level_cons_true, htail] at h hb
    · rw [ih htail (by omega)]; rfl
    · rw [level_injective htail (by omega), differences_self]; rfl
    · rw [level_injective htail (by omega), differences_self]; rfl
    · rw [ih htail (by omega)]; rfl

/-- Settles O54: one axis has equal levels, so equal bits, and the other adjacent levels. -/
theorem constellationIsGrayCoded : Obligations.ConstellationIsGrayCoded := by
  intro m ys zs hy hz h
  have hlen : ys.length = zs.length := hy.trans hz.symm
  obtain ⟨hyI, hyQ⟩ := length_axes ys
  obtain ⟨hzI, hzQ⟩ := length_axes zs
  have hI : (axes ys).1.length = (axes zs).1.length := by rw [hyI, hzI, hlen]
  have hQ : (axes ys).2.length = (axes zs).2.length := by rw [hyQ, hzQ, hlen]
  rw [← hy, length_filter_ne_eq_differences hlen, differences_eq_add_axes hlen]
  rw [point_eq_levels hy, point_eq_levels hz] at h
  obtain ⟨hsame, hnext⟩ | ⟨hsame, hnext⟩ := h
  · rw [level_injective hI hsame, differences_self, differences_of_adjacent_levels hQ (.inl hnext)]
  · rw [level_injective hQ hsame, differences_self, differences_of_adjacent_levels hI (.inl hnext)]

/-! ### The mean energy (46_mapper.md R287) -/

/-- Settles O53: a finite sum for each modulation, of at most 256 points. -/
theorem constellationEnergyIsNormalised : Obligations.ConstellationEnergyIsNormalised := by
  intro m
  cases m <;> decide +kernel

/-! ### Entries (46_mapper.md R289) -/

/-- The number of a bit sequence, with bits in front of it. -/
theorem foldl_bits_eq_sum (n : Nat) (bs : List Bool) :
    bs.foldl (fun acc b => 2 * acc + b.toNat) n = n * 2 ^ bs.length +
      ((List.range bs.length).map fun j => (bs.getD j false).toNat * 2 ^ (bs.length - 1 - j)).sum := by
  induction bs generalizing n with
  | nil => simp
  | cons b bs ih =>
    have hexp : ∀ j, bs.length - 1 - j = bs.length - (j + 1) := by omega
    rw [List.foldl_cons, ih, List.length_cons, List.range_succ_eq_map, List.map_cons, List.sum_cons, List.map_map]
    simp only [Function.comp_def, List.getD_cons_succ, List.getD_cons_zero, Nat.succ_eq_add_one,
      Nat.add_sub_cancel, Nat.sub_zero, hexp]
    ring

theorem bitsToNat_eq_sum (bs : List Bool) : bitsToNat bs =
    ((List.range bs.length).map fun j => (bs.getD j false).toNat * 2 ^ (bs.length - 1 - j)).sum := by
  rw [bitsToNat, foldl_bits_eq_sum, Nat.zero_mul, Nat.zero_add]

theorem bitsToNat_lt (bs : List Bool) : bitsToNat bs < 2 ^ bs.length := by
  refine Nat.lt_pow_two_of_testBit _ fun j hj => ?_
  rw [testBit_bitsToNat, List.getD_eq_default _ _ (by simpa using hj)]

/-- An axis has at most four bits, so its levels fit a signed half of the entry. -/
theorem toInt_ofInt_level {bs : List Bool} (h : bs.length ≤ 4) : (BitVec.ofInt 16 (level bs)).toInt = level bs := by
  obtain ⟨hlow, hhigh⟩ := abs_lt.1 (abs_level_lt bs)
  have hpow : (2 : Int) ^ bs.length ≤ 2 ^ 4 := pow_le_pow_right₀ (by decide) h
  exact BitVec.toInt_ofInt_eq_self (by decide) (by omega) (by omega)

theorem eta_le (m : Modulation) : eta m ≤ 8 := by cases m <;> decide

theorem signOf_eq (ys : List Bool) (i : Nat) : signOf ys i = 1 - 2 * ((ys.getD i false).toNat : Int) := by
  unfold signOf
  cases ys.getD i false <;> rfl

theorem toInt_entryOf {m : Modulation} {ys : List Bool} (h : ys.length = eta m) :
    ((entryOf false m ys).extractLsb' 16 16).toInt = (point m ys).1 ∧
      ((entryOf false m ys).extractLsb' 0 16).toInt = (point m ys).2 := by
  have heta := eta_le m
  obtain ⟨hI, hQ⟩ := length_axes ys
  have hhigh : (entryOf false m ys).extractLsb' 16 16 = BitVec.ofInt 16 (point m ys).1 :=
    BitVec.extractLsb'_append_eq_left
  have hlow : (entryOf false m ys).extractLsb' 0 16 = BitVec.ofInt 16 (point m ys).2 :=
    BitVec.extractLsb'_append_eq_right
  rw [hhigh, hlow, point_eq_levels h]
  exact ⟨toInt_ofInt_level (by omega), toInt_ofInt_level (by omega)⟩

theorem toNat_entryOf_raw {m : Modulation} {ys : List Bool} (h : ys.length = eta m) :
    (entryOf true m ys).toNat = bitsToNat ys := by
  have heta := eta_le m
  refine (BitVec.toNat_ofNat _ _).trans (Nat.mod_eq_of_lt ((bitsToNat_lt ys).trans_le ?_))
  exact Nat.pow_le_pow_right (by decide) (by omega)

/-- Settles O52: the statement's coordinates are the model's point, and the raw number fits the entry. -/
theorem entriesHoldCoordinatesOrRawBits : Obligations.EntriesHoldCoordinatesOrRawBits := by
  intro m ys h u c
  have hc : c = point m ys := by
    have hu : u = signOf ys := funext fun i => (signOf_eq ys i).symm
    simp only [c, hu]
    rfl
  obtain ⟨hI, hQ⟩ := toInt_entryOf h
  rw [hc, hI, hQ, toNat_entryOf_raw h, bitsToNat_eq_sum, h]
  exact ⟨rfl, rfl, rfl⟩

/-! ### MAP (46_mapper.md R280, R281, R290) -/

/-- R15's table in the model's terms. -/
theorem modulations_eq_some {n : Nat} (h : n ≤ 4) : modulations[n]? = some (modOfCode n, eta (modOfCode n)) ∧
    (modCode (modOfCode n)).toNat = n := by
  interval_cases n <;> exact ⟨rfl, rfl⟩

theorem mapMod_eq_modOfCode (cfg : BitVec 15) (sel : MapSel) : mapMod cfg sel = modOfCode (modCodeOf cfg sel) := by
  cases sel
  · rw [mapMod, payMod, cfgPlpMod_toNat]; rfl
  · rfl
  · rw [mapMod, l1Mod, cfgL1Mod_toNat]; rfl

/-- Checks 1 and 2 bound the MODCODEs (40_control.md R145). -/
theorem accepted_modCodeOf {p : Params} {cfg : BitVec 15} (h : failedCheck p cfg = none) (sel : MapSel) :
    modCodeOf cfg sel ≤ 4 := by
  obtain ⟨hplp, hl1⟩ := accepted_codes h
  cases sel <;> simp only [modCodeOf] <;> omega

theorem toNat_outModOf (raw : Bool) (m : Modulation) :
    (outModOf raw m).toNat = (modCode m).toNat + (if raw then 8 else 0) := by
  cases raw <;> cases m <;> rfl

/-- The emit step writes the symbols from entry 0 on and nothing above them. -/
theorem emitsSymbols_write {s t : State} {raw : Bool} {m : Modulation} {n : Nat} {bs : List Bool}
    (h : t.ob = s.ob.write 0 (entriesOf raw m n bs)) : EmitsSymbols s t raw m n bs := by
  refine ⟨fun k hk => ?_, fun k hk => ?_⟩
  · rw [h, WordRam.read_write, if_pos ⟨Nat.zero_le k, by simpa using hk⟩, List.getD_eq_getElem?_getD, Nat.sub_zero,
      entriesOf, List.getElem?_map, getElem_groupsOf hk]
    rfl
  · rw [h, WordRam.read_write_outside _ (.inr (by simpa using hk))]

/-- A first bad bit below n is one below any larger bound. -/
theorem ReportsFirstBadBit.mono {i : Instr} {s : State} {m n : Nat} (h : ReportsFirstBadBit i s n) (hmn : m ≤ n) :
    ReportsFirstBadBit i s m :=
  fun bs hl => h bs (hl.trans_le hmn)

/-- Every form of MAP needs CONFIGURED and runs MAP's body (30_encoding.md R112, R113). -/
theorem mapOf_runs_mapBody (sel : MapSel) : mapOf sel ≠ .configure ∧ needsConfig (mapOf sel) = true ∧
    bodyOf (mapOf sel) = mapBody sel ∧ IsCommand (mapOf sel) (tableWord (mapOf sel)) [8, 9] := by
  cases sel <;> exact ⟨nofun, rfl, rfl, isCommand_of_codes fun _ => rfl⟩

/-- Settles O51: the length is checked first; the checked read answers the n bits or the lowest bad one, and the entries
of their groups are written. -/
theorem mapEmitsTheSymbols : Obligations.MapEmitsTheSymbols := by
  intro sel s
  obtain ⟨hne, hneeds, hbody, hcmd⟩ := mapOf_runs_mapBody sel
  refine ⟨by cases sel <;> exact hcmd, exec_of_not_configured hneeds, fun hs hc => ?_⟩
  obtain ⟨hmodulation, hcode⟩ := modulations_eq_some (accepted_modCodeOf (accepted_of_inv hs hc) sel)
  obtain ⟨⟨hfb, -⟩, -⟩ := hs
  rw [← mapMod_eq_modOfCode] at hmodulation hcode
  refine ⟨_, _, hmodulation, fun hbad => ?_, fun hwhole hfit => ⟨?_, fun bs hl hb => ?_⟩⟩
  · have herr : bodyOf (mapOf sel) s = .error (.len _) := hbody ▸ mapBody_error.2 (.inl ⟨hbad, rfl⟩)
    exact endsInError_of_body_error hne (fun _ => hc) herr
  · exact ReportsFirstBadBit.mono (reportsFirstBadBit_of_body hne (fun _ => hc) hfb fun e he =>
      hbody ▸ mapBody_error.2 (.inr ⟨hwhole, hfit, he⟩)) (Nat.min_le_left _ _)
  · have hok : bodyOf (mapOf sel) s = .ok _ :=
      hbody ▸ mapBody_ok.2 ⟨hwhole, hfit, bs, (readBits_ok hfb).2 ⟨hl, hb⟩, rfl⟩
    refine ⟨_, exec_of_body_ok hne (fun _ => hc) hok, rfl, ?_, ?_, emitsSymbols_write rfl⟩
    · exact (BitVec.toNat_ofNat _ 16).trans (Nat.mod_eq_of_lt (Nat.lt_of_le_of_lt hfit (by decide)))
    · exact (toNat_outModOf _ _).trans (congrArg (· + _) hcode)

end Sys2Proof.Proofs

/-! The assembler family (47_assembler.md): the frame buffer that holds one bit sequence alone, the stages of ASSEMBLE and
PAYLOAD on it, and that ASSEMBLE sees nothing of what the core held before. -/

namespace Sys2Proof.Proofs

open Sys2Proof Sys2Proof.Machine Sys2Proof.Claims

/-! ### A frame buffer that holds one bit sequence alone -/

theorem cellsFrom_append {α : Type} (base : Nat) (vs ws : List α) :
    cellsFrom base (vs ++ ws) = cellsFrom base vs ++ cellsFrom (base + vs.length) ws := by
  induction vs generalizing base with
  | nil => rfl
  | cons v vs ih =>
    rw [List.cons_append, cellsFrom, ih, cellsFrom, List.length_cons, Nat.add_right_comm, Nat.add_assoc]
    rfl

theorem freshFrame_eq (bs : List Bool) :
    freshFrame bs = (cellsFrom 0 (bs.map bitByte)).filter (fun c => decide (c.1 < nMax)) := by
  simp [freshFrame, Memory.writeBits, Memory.write, splice, Memory.invalid]

/-- The indices of a fresh frame buffer are those of its bits. -/
theorem freshFrame_index {bs : List Bool} {c : Host.Cell} (h : c ∈ freshFrame bs) : c.1 < bs.length := by
  rw [freshFrame_eq] at h
  simpa using (cellsFrom_index (List.mem_filter.1 h).1).2

theorem elem_freshFrame_above {bs : List Bool} {k : Nat} (h : bs.length ≤ k) : (freshFrame bs).elem k = none :=
  Memory.elem_writeBits_outside _ (.inr (by omega))

/-- Bits written behind the frame extend it. -/
theorem freshFrame_writeBits_append (bs cs : List Bool) :
    (freshFrame bs).writeBits bs.length cs = freshFrame (bs ++ cs) := by
  have hlow : (freshFrame bs).filter (fun c => decide (c.1 < bs.length)) = freshFrame bs :=
    List.filter_eq_self.2 fun c hc => decide_eq_true (freshFrame_index hc)
  have hhigh : (freshFrame bs).filter (fun c => decide (bs.length + (cs.map bitByte).length ≤ c.1)) = [] :=
    List.filter_eq_nil_iff.2 fun c hc => by have := freshFrame_index hc; simp; omega
  rw [Memory.writeBits, Memory.write, splice, hlow, hhigh, List.append_nil, freshFrame_eq, freshFrame_eq,
    List.map_append, cellsFrom_append, List.filter_append, List.length_map, Nat.zero_add]

/-- Bits written over the whole frame replace it. -/
theorem freshFrame_writeBits_whole {bs cs : List Bool} (h : cs.length = bs.length) :
    (freshFrame bs).writeBits 0 cs = freshFrame cs := by
  have hlow : (freshFrame bs).filter (fun c => decide (c.1 < 0)) = [] := by simp
  have hhigh : (freshFrame bs).filter (fun c => decide (0 + (cs.map bitByte).length ≤ c.1)) = [] :=
    List.filter_eq_nil_iff.2 fun c hc => by have := freshFrame_index hc; simp; omega
  rw [Memory.writeBits, Memory.write, splice, hlow, hhigh, List.append_nil, List.nil_append, freshFrame_eq]

/-- The state with `bs` alone in the frame buffer and CURSOR behind it. -/
def holding (s : State) (bs : List Bool) : State :=
  { s with fb := freshFrame bs, cursor := BitVec.ofNat 17 bs.length }

/-- A length up to NMAX fits a register of 16 bits (10_state.md R43, R45). -/
theorem toNat_ofNat_16 {n : Nat} (h : n ≤ nMax) : (BitVec.ofNat 16 n).toNat = n :=
  (BitVec.toNat_ofNat n 16).trans (Nat.mod_eq_of_lt (Nat.lt_of_le_of_lt h (by decide)))

/-! ### The stages on such a frame (47_assembler.md R305) -/

section
variable {s : State} {bs : List Bool}

/-- A stage that asks for the n bits of the frame finds CURSOR there and reads them. -/
theorem holding_read {n : Nat} (hlen : bs.length = n) (hfit : n ≤ nMax) :
    (holding s bs).cursor.toNat = n ∧ readBits (holding s bs).fb n = .ok bs := by
  subst hlen
  exact ⟨toNat_cursor_of_le hfit, readBits_freshFrame hfit⟩

/-- A stage that writes `cs` behind the frame leaves the longer frame. -/
theorem holding_append {cs : List Bool} {k n : Nat} (hk : bs.length = k) (hn : k + cs.length = n) :
    { s with fb := (freshFrame bs).writeBits k cs, cursor := BitVec.ofNat 17 n } = holding s (bs ++ cs) := by
  subst hk hn
  rw [freshFrame_writeBits_append, ← List.length_append]
  rfl

/-- A stage that writes `cs` over the whole frame leaves `cs`. -/
theorem holding_overwrite {cs : List Bool} (h : cs.length = bs.length) :
    { holding s bs with fb := (freshFrame bs).writeBits 0 cs } = holding s cs := by
  rw [freshFrame_writeBits_whole h, holding, ← h]
  rfl

theorem packBody_eq_holding {r : Rec} (h : (schemaOf s.params s.actCfg r).sum = expLenOf s.params s.actCfg r) :
    packBody r s = .ok (holding s (packedBits (schemaOf s.params s.actCfg r) (s.slots.get r))) :=
  packBody_ok.2 ⟨h, by rw [holding, length_packedBits]; rfl⟩

theorem crcBody_holding (hfit : bs.length + 32 ≤ nMax) :
    crcBody (holding s bs) = .ok (holding { s with crcValue := crc32 bs } (bs ++ msbBits 32 (crc32 bs))) := by
  obtain ⟨hcur, hread⟩ := holding_read (s := s) (bs := bs) rfl (Nat.le_of_add_right_le hfit)
  rw [crcBody_ok, hcur, ← holding_append rfl (by rw [length_msbBits])]
  exact ⟨hfit, bs, hread, rfl⟩

theorem padBody_holding {r : Rec} (hlen : bs.length = (s.store.dp.recs.get r).kSig)
    (hpad : (s.store.dp.recs.get r).kSig ≤ (s.store.dp.recs.get r).kBch)
    (hfit : (s.store.dp.recs.get r).kSig ≤ nMax) :
    padBody r (holding s bs) = .ok (holding s
      (bs ++ List.replicate ((s.store.dp.recs.get r).kBch - (s.store.dp.recs.get r).kSig) false)) := by
  refine padBody_ok.2 ⟨(holding_read hlen hfit).1, (holding_append hlen ?_).symm⟩
  rw [List.length_replicate]
  exact Nat.add_sub_cancel' hpad

theorem bchBody_holding {r : Rec} (hlen : bs.length = (s.store.dp.recs.get r).kBch)
    (hfit : (s.store.dp.recs.get r).kBch ≤ nMax) :
    bchBody r (holding s bs) = .ok (holding s (bs ++ bchParity s.store.gen bs)) := by
  obtain ⟨hcur, hread⟩ := holding_read (s := s) hlen hfit
  exact bchBody_ok.2 ⟨hcur, bs, hread, (holding_append hlen (congrArg (_ + ·) (length_bchParity _ _))).symm⟩

theorem ldpcBody_holding {r : Rec} (hlen : bs.length = (s.store.dp.recs.get r).kLdpc)
    (hfit : (s.store.dp.recs.get r).kLdpc ≤ nMax) :
    ldpcBody r (holding s bs) =
      .ok (holding s (bs ++ ldpcParity (s.store.sched.get r) bs (s.store.dp.recs.get r).pBits)) := by
  obtain ⟨hcur, hread⟩ := holding_read (s := s) hlen hfit
  exact ldpcBody_ok.2 ⟨hcur, bs, hread, (holding_append hlen (congrArg (_ + ·) (length_ldpcParity _ _ _))).symm⟩

/-- The registers that PUNCTURE sets (44_puncture.md R238). -/
def withCounts (s : State) (d : RecParams) : State :=
  { s with
    puncCount := BitVec.ofNat 16 d.nPunc
    removedCount := BitVec.ofNat 16 ((d.kBch - d.kSig) + d.nPunc) }

theorem punctureBody_holding {r : Rec} (hfits : PunctureFits (s.store.dp.recs.get r))
    (hn : (s.store.dp.recs.get r).kLdpc + (s.store.dp.recs.get r).pBits = s.params.nLdpcSig)
    (hlen : bs.length = s.params.nLdpcSig) (hfit : s.params.nLdpcSig ≤ nMax) :
    punctureBody r (holding s bs) =
      .ok (holding (withCounts s (s.store.dp.recs.get r)) (transmitted (s.store.dp.recs.get r) bs)) := by
  obtain ⟨hcur, hread⟩ := holding_read (s := s) hlen hfit
  refine punctureBody_ok.2 ⟨hcur, bs, hread, ?_⟩
  rw [holding, length_transmitted hfits (hlen.trans hn.symm), ← punctured_eq_transmitted hfits (hlen.trans hn.symm)]
  rfl

theorem interleavePayBody_holding (hlen : bs.length = s.store.dp.nFrame) (hfit : s.store.dp.nFrame ≤ nMax) :
    interleavePayBody (holding s bs) =
      .ok (holding s (interleavedBy (payCols s.actCfg) s.store.dp.payTables bs)) := by
  obtain ⟨hcur, hread⟩ := holding_read (s := s) hlen hfit
  exact interleavePayBody_ok.2 ⟨hcur, bs, hread, (holding_overwrite (length_interleavedBy _ _ _)).symm⟩

theorem interleavePostBody_holding (hinter : l1Interleaved s.actCfg = true)
    (hlen : bs.length = s.store.dp.recs.post.nFec) (hfit : s.store.dp.recs.post.nFec ≤ nMax) :
    interleavePostBody (holding s bs) =
      .ok (holding s (interleavedBy (l1Cols s.actCfg) s.store.dp.l1Tables bs)) := by
  obtain ⟨hcur, hread⟩ := holding_read (s := s) hlen hfit
  exact interleavePostBody_ok.2 ⟨hinter, hcur, bs, hread, (holding_overwrite (length_interleavedBy _ _ _)).symm⟩

/-- ASSEMBLE.POST interleaves for L1_MOD 2 and 3 (47_assembler.md R301). -/
theorem interleaveStage_post_of_interleaved (h : l1Interleaved s.actCfg = true) :
    interleaveStage .post s = interleavePostBody s := if_pos h

theorem interleaveStage_post_of_not_interleaved (h : l1Interleaved s.actCfg = false) :
    interleaveStage .post s = .ok s := by
  simp [interleaveStage, h]

/-- The output of MAP for the n symbols of `bs` (46_mapper.md R290). -/
def withSymbols (s : State) (sel : MapSel) (n : Nat) (bs : List Bool) : State :=
  { s with
    ob := s.ob.write 0 (entriesOf (cfgOutFmt s.actCfg) (mapMod s.actCfg sel) n bs)
    outCount := BitVec.ofNat 16 n
    outMod := outModOf (cfgOutFmt s.actCfg) (mapMod s.actCfg sel) }

theorem eta_pos (m : Modulation) : 0 < eta m := by cases m <;> decide

theorem mapBody_holding {sel : MapSel} {n : Nat} (hlen : n * eta (mapMod s.actCfg sel) = bs.length) (hn : n ≤ obSize)
    (hfit : bs.length ≤ nMax) : mapBody sel (holding s bs) = .ok (holding (withSymbols s sel n bs) bs) := by
  obtain ⟨hcur, hread⟩ := holding_read (s := s) (bs := bs) rfl hfit
  have hdiv : bs.length / eta (mapMod s.actCfg sel) = n := hlen ▸ Nat.mul_div_cancel n (eta_pos _)
  have hmod : bs.length % eta (mapMod s.actCfg sel) = 0 := hlen ▸ Nat.mul_mod_left n _
  rw [mapBody_ok, hcur]
  refine ⟨hmod, hdiv.trans_le hn, bs, hread, ?_⟩
  rw [show bs.length / eta (mapMod (holding s bs).actCfg sel) = n from hdiv]
  rfl

/-- Under an accepted configuration OUT_MOD holds the MODCODE of ACTCFG and OUTFMT (46_mapper.md R290). -/
theorem toNat_outModOf_mapMod {p : Params} {cfg : BitVec 15} (h : failedCheck p cfg = none) (sel : MapSel) :
    (outModOf (cfgOutFmt cfg) (mapMod cfg sel)).toNat = outModValue cfg sel := by
  obtain ⟨-, hcode⟩ := modulations_eq_some (accepted_modCodeOf h sel)
  rw [← mapMod_eq_modOfCode] at hcode
  exact (toNat_outModOf _ _).trans (congrArg (· + _) hcode)

end

/-! ### The bits of ASSEMBLE, stage by stage (47_assembler.md R303, R305) -/

section
variable {r : Rec} {s : State}

theorem length_infoBits (s : State) (r : Rec) :
    (infoBits s r).length = (schemaOf s.params s.actCfg r).sum + 32 := by
  rw [infoBits, List.length_append, length_packedBits, length_msbBits]

/-- PACK's length check makes the information bits KSIG many (41_pack_crc.md R162). -/
theorem length_infoBits_of_inv (hs : s.Inv) (hc : s.configured = true)
    (hsum : (schemaOf s.params s.actCfg r).sum = expLenOf s.params s.actCfg r) :
    (infoBits s r).length = (s.store.dp.recs.get r).kSig := by
  rw [length_infoBits, hsum, recs_of_inv hs hc r]
  rfl

theorem length_messageBits (h : PunctureFits (s.store.dp.recs.get r))
    (hinfo : (infoBits s r).length = (s.store.dp.recs.get r).kSig) :
    (messageBits s r).length = (s.store.dp.recs.get r).kBch := by
  rw [messageBits, List.length_append, List.length_replicate, hinfo, Nat.add_sub_cancel' h.info]

theorem length_bchCodeword (h : PunctureFits (s.store.dp.recs.get r))
    (hinfo : (infoBits s r).length = (s.store.dp.recs.get r).kSig) :
    (bchCodeword s r).length = (s.store.dp.recs.get r).kLdpc := by
  rw [bchCodeword, List.length_append, length_bchParity, length_messageBits h hinfo, h.bch]
  rfl

theorem length_ldpcCodeword (h : PunctureFits (s.store.dp.recs.get r))
    (hinfo : (infoBits s r).length = (s.store.dp.recs.get r).kSig) :
    (ldpcCodeword s r).length = (s.store.dp.recs.get r).kLdpc + (s.store.dp.recs.get r).pBits := by
  rw [ldpcCodeword, List.length_append, length_ldpcParity, length_bchCodeword h hinfo]

theorem sentBits_of_interleaved (h : l1Interleaved s.actCfg = true) : sentBits s .post =
    interleavedBy (l1Cols s.actCfg) s.store.dp.l1Tables
      (transmitted (s.store.dp.recs.get .post) (ldpcCodeword s .post)) := if_pos h

theorem sentBits_of_not_interleaved (h : l1Interleaved s.actCfg = false) :
    sentBits s .post = transmitted (s.store.dp.recs.get .post) (ldpcCodeword s .post) := by
  simp [sentBits, h]

/-- The permutation of L1-post keeps the number of the bits. -/
theorem length_sentBits (h : PunctureFits (s.store.dp.recs.get r))
    (hinfo : (infoBits s r).length = (s.store.dp.recs.get r).kSig) :
    (sentBits s r).length = (s.store.dp.recs.get r).nFec := by
  have hlen := length_transmitted h (length_ldpcCodeword h hinfo)
  cases r with
  | pre => exact hlen
  | post =>
    cases hi : l1Interleaved s.actCfg with
    | true => rwa [sentBits_of_interleaved hi, length_interleavedBy]
    | false => rwa [sentBits_of_not_interleaved hi]

/-- CRC_VALUE holds the record's CRC (41_pack_crc.md R168). -/
def withRecordCrc (s : State) (r : Rec) : State :=
  { s with crcValue := crc32 (packedBits (schemaOf s.params s.actCfg r) (s.slots.get r)) }

/-- The registers of ASSEMBLE's result ahead of MAP's (47_assembler.md R303). -/
def encoded (s : State) (r : Rec) : State :=
  { s with
    crcValue := crc32 (packedBits (schemaOf s.params s.actCfg r) (s.slots.get r))
    puncCount := BitVec.ofNat 16 (s.store.dp.recs.get r).nPunc
    removedCount := BitVec.ofNat 16 (((s.store.dp.recs.get r).kBch - (s.store.dp.recs.get r).kSig) +
      (s.store.dp.recs.get r).nPunc) }

/-- The INTERLEAVE stage turns the transmitted sequence into the bits that are sent. -/
theorem interleaveStage_holding
    (hlen : (transmitted (s.store.dp.recs.get r) (ldpcCodeword s r)).length = (s.store.dp.recs.get r).nFec)
    (hfit : (s.store.dp.recs.get r).nFec ≤ nMax) :
    interleaveStage r (holding (encoded s r) (transmitted (s.store.dp.recs.get r) (ldpcCodeword s r))) =
      .ok (holding (encoded s r) (sentBits s r)) := by
  cases r with
  | pre => rfl
  | post =>
    cases hi : l1Interleaved s.actCfg with
    | true =>
      rw [sentBits_of_interleaved hi]
      exact (interleaveStage_post_of_interleaved (s := holding (encoded s .post) _) hi).trans
        (interleavePostBody_holding (s := encoded s .post) hi hlen hfit)
    | false =>
      rw [sentBits_of_not_interleaved hi]
      exact interleaveStage_post_of_not_interleaved (s := holding (encoded s .post) _) hi

/-- The state ASSEMBLE leaves (47_assembler.md R303). -/
def assembled (s : State) (r : Rec) : State :=
  holding (withSymbols (encoded s r) (mapSelOf r) (s.store.dp.recs.get r).nSym (sentBits s r)) (sentBits s r)

theorem eta_mapMod_mapSelOf (cfg : BitVec 15) (r : Rec) : eta (mapMod cfg (mapSelOf r)) = etaOf cfg r := by
  cases r <;> rfl

/-- N_FEC is a whole number of symbols that fit OB (check 9). -/
theorem nSym_of_inv (hs : s.Inv) (hc : s.configured = true) (r : Rec) :
    (s.store.dp.recs.get r).nSym * eta (mapMod s.actCfg (mapSelOf r)) = (s.store.dp.recs.get r).nFec ∧
      (s.store.dp.recs.get r).nSym ≤ obSize := by
  obtain ⟨-, -, -, -, -, hsym, hle⟩ := accepted_lengths (accepted_of_inv hs hc) r
  rw [eta_mapMod_mapSelOf, recs_of_inv hs hc r]
  exact ⟨hsym, hle⟩

/-- After PACK succeeds, every later stage's checks hold (R305). -/
theorem assembleStages_of_inv (hs : s.Inv) (hc : s.configured = true)
    (hsum : (schemaOf s.params s.actCfg r).sum = expLenOf s.params s.actCfg r) :
    assembleStages r s = .ok (assembled s r) := by
  have hfits := punctureFits_of_inv hs hc r
  obtain ⟨hn, hmax⟩ := nLdpcSig_of_inv hs hc r
  obtain ⟨hsym, hob⟩ := nSym_of_inv hs hc r
  have hnFec := nFec_le_nMax hs hc r
  have hpad := hfits.info
  have hbch := hfits.bch
  have hinfo := length_infoBits_of_inv hs hc hsum
  have hcodeword := length_ldpcCodeword hfits hinfo
  have hsent := length_sentBits hfits hinfo
  have hcrc : (packedBits (schemaOf s.params s.actCfg r) (s.slots.get r)).length + 32 ≤ nMax := by
    rw [length_packedBits, ← length_infoBits]
    omega
  have ⟨hkSig, hkBch, hkLdpc⟩ : (s.store.dp.recs.get r).kSig ≤ nMax ∧ (s.store.dp.recs.get r).kBch ≤ nMax ∧
      (s.store.dp.recs.get r).kLdpc ≤ nMax := by omega
  have hcrcStage : crcBody (holding s (packedBits (schemaOf s.params s.actCfg r) (s.slots.get r))) =
      .ok (holding (withRecordCrc s r) (infoBits s r)) := crcBody_holding hcrc
  have hpadStage : padBody r (holding (withRecordCrc s r) (infoBits s r)) =
      .ok (holding (withRecordCrc s r) (messageBits s r)) := padBody_holding (s := withRecordCrc s r) hinfo hpad hkSig
  have hbchStage : bchBody r (holding (withRecordCrc s r) (messageBits s r)) =
      .ok (holding (withRecordCrc s r) (bchCodeword s r)) :=
    bchBody_holding (s := withRecordCrc s r) (length_messageBits hfits hinfo) hkBch
  have hldpcStage : ldpcBody r (holding (withRecordCrc s r) (bchCodeword s r)) =
      .ok (holding (withRecordCrc s r) (ldpcCodeword s r)) :=
    ldpcBody_holding (s := withRecordCrc s r) (length_bchCodeword hfits hinfo) hkLdpc
  have hpunctureStage : punctureBody r (holding (withRecordCrc s r) (ldpcCodeword s r)) =
      .ok (holding (encoded s r) (transmitted (s.store.dp.recs.get r) (ldpcCodeword s r))) :=
    punctureBody_holding (s := withRecordCrc s r) hfits hn (hcodeword.trans hn) hmax
  have hmapStage : mapBody (mapSelOf r) (holding (encoded s r) (sentBits s r)) = .ok (assembled s r) :=
    mapBody_holding (s := encoded s r) (hsym.trans hsent.symm) hob (hsent.trans_le hnFec)
  simp only [assembleStages, andThen_ok]
  exact ⟨_, packBody_eq_holding hsum, _, hcrcStage, _, hpadStage, _, hbchStage, _, hldpcStage, _, hpunctureStage, _,
    interleaveStage_holding (length_transmitted hfits hcodeword) hnFec, hmapStage⟩

end

/-! ### ASSEMBLE (47_assembler.md R303 to R305) -/

/-- Both forms of ASSEMBLE need CONFIGURED and run ASSEMBLE's body (30_encoding.md R112, R113). -/
theorem assembleOf_runs_assembleBody (r : Rec) : assembleOf r ≠ .configure ∧ needsConfig (assembleOf r) = true ∧
    bodyOf (assembleOf r) = assembleBody r ∧ decode (tableWord (assembleOf r)) = some (assembleOf r) := by
  cases r <;> exact ⟨nofun, rfl, rfl, rfl⟩

/-- ASSEMBLE's codes: 1 to 6, 8 and 9, and 7 where it interleaves (47_assembler.md R300, R301). -/
theorem stageCodes_assembleOf (inter : Bool) (r : Rec) : ∀ c ∈ stageCodes inter (assembleOf r),
    c ∈ ([1, 2, 3, 4, 5, 6, 8, 9] : List (BitVec 4)) ∨ c = 7 ∧ r = .post ∧ inter = true := by
  cases r <;> cases inter <;> decide

/-- ASSEMBLE changes FB, OB, CURSOR, the result registers and its completion bits only. -/
theorem finish_assembled (s : State) (r : Rec) : finish (assembled s r) =
    { s with
      fb := (finish (assembled s r)).fb, ob := (finish (assembled s r)).ob, cursor := (finish (assembled s r)).cursor
      puncCount := (finish (assembled s r)).puncCount, removedCount := (finish (assembled s r)).removedCount
      outCount := (finish (assembled s r)).outCount, outMod := (finish (assembled s r)).outMod
      crcValue := crc32 (packedBits (schemaOf s.params s.actCfg r) (s.slots.get r)), done := true, busy := false } := by
  simp only [finish, assembled, holding, withSymbols, encoded]

/-- What ASSEMBLE leaves in the result registers (47_assembler.md R303). -/
theorem assembled_registers {s : State} {r : Rec} (hs : s.Inv) (hc : s.configured = true)
    (hsum : (schemaOf s.params s.actCfg r).sum = expLenOf s.params s.actCfg r) :
    let d := s.store.dp.recs.get r
    let t := finish (assembled s r)
    t.cursor.toNat = d.nFec ∧ t.puncCount.toNat = d.nPunc ∧ t.removedCount.toNat = (d.kBch - d.kSig) + d.nPunc ∧
      t.outCount.toNat = d.nSym ∧ t.outMod.toNat = outModValue s.actCfg (mapSelOf r) := by
  have hsent := length_sentBits (punctureFits_of_inv hs hc r) (length_infoBits_of_inv hs hc hsum)
  obtain ⟨-, hmax⟩ := nLdpcSig_of_inv hs hc r
  obtain ⟨-, hob⟩ := nSym_of_inv hs hc r
  have hsplit := nFec_add_removed hs hc r
  exact ⟨(toNat_cursor_of_le (hsent.trans_le (nFec_le_nMax hs hc r))).trans hsent, toNat_ofNat_16 (by omega),
    toNat_ofNat_16 (by omega), toNat_ofNat_16 (hob.trans (by decide)),
    toNat_outModOf_mapMod (accepted_of_inv hs hc) _⟩

/-- Settles O55: the sizes are checked first, and in a state that meets the invariant every stage after PACK finds the
length it asks for and reads the bits the stages before it left. -/
theorem assembleProducesTheFrame : Obligations.AssembleProducesTheFrame := by
  intro r s
  obtain ⟨hne, hneeds, hbody, hdecode⟩ := assembleOf_runs_assembleBody r
  refine ⟨by cases r <;> exact hdecode, fun u hb hl => ?_, exec_of_not_configured hneeds, fun hc hout => ?_,
    fun hc hout hsum => ?_, fun hs hc hout hsum => ?_⟩
  · have hd : decode u.latch = some (assembleOf r) := by cases r <;> exact hl ▸ hdecode
    rw [← l1Interleaved_iff]
    exact stageCodes_assembleOf _ r _ (stageField_mem hb hd)
  · have herr : bodyOf (assembleOf r) s = .error (.outSize _) := hbody ▸ assembleBody_error.2 (.inl ⟨hout, rfl⟩)
    exact endsInError_of_body_error hne (fun _ => hc) herr
  · have hpack : assembleStages r s = .error (.len _) := andThen_error.2 (.inl (packBody_error.2 ⟨hsum, rfl⟩))
    have herr : bodyOf (assembleOf r) s = .error (.len _) := hbody ▸ assembleBody_error.2 (.inr ⟨hout, hpack⟩)
    exact endsInError_of_body_error hne (fun _ => hc) herr
  · have hok : bodyOf (assembleOf r) s = .ok (assembled s r) :=
      hbody ▸ assembleBody_ok.2 ⟨hout, assembleStages_of_inv hs hc hsum⟩
    have hsent := length_sentBits (punctureFits_of_inv hs hc r) (length_infoBits_of_inv hs hc hsum)
    obtain ⟨hcursor, hpunc, hremoved, hcount, hmod⟩ := assembled_registers hs hc hsum
    refine ⟨_, exec_of_body_ok hne (fun _ => hc) hok, finish_assembled s r, hcursor, hpunc, hremoved, hcount, ?_,
      hsent, holdsBits_writeBits _ ?_, fun k hk => elem_freshFrame_above (hsent.trans_le hk), ?_⟩
    · cases r <;> exact hmod
    · rw [Nat.zero_add, hsent]
      exact nFec_le_nMax hs hc r
    · cases r <;> exact emitsSymbols_write rfl

theorem next_eq_of_endsInError {i : Instr} {s t : State} {code : BitVec 8} {info : Word}
    (h : EndsInError i s code info) (ht : exec i s = .next t) :
    t = { s with err := true, errCode := code, errInfo := info, busy := false } :=
  Host.Outcome.next.inj (ht.symm.trans h)

/-- Settles O56: with ERR = 0 at issue, O55 leaves ASSEMBLE no other error than the three. -/
theorem assembleFailsOnlyBeforeItWrites : Obligations.AssembleFailsOnlyBeforeItWrites := by
  intro r s t hs he h ht
  obtain ⟨-, -, hcfg, hout, hlen, hok⟩ := assembleProducesTheFrame r s
  rcases Bool.eq_false_or_eq_true s.configured with hc | hc
  · refine .inr ⟨hc, ?_⟩
    by_cases hn : s.outReq.toNat = (s.store.dp.recs.get r).nSym
    · by_cases hsum : ((s.params.schema.get r).at s.actCfg).sum = (s.params.expLen.get r).at s.actCfg
      · obtain ⟨u, hu, hframe, -⟩ := hok hs hc hn hsum
        cases h.symm.trans hu
        rw [hframe] at ht
        cases he.symm.trans ht
      · exact .inr (next_eq_of_endsInError (hlen hc hn hsum) h)
    · exact .inl (next_eq_of_endsInError (hout hc hn) h)
  · exact .inl ⟨hc, next_eq_of_endsInError (hcfg hc) h⟩

/-! ### PAYLOAD (47_assembler.md R307, 70_reset_and_hazards.md R374) -/

section
variable {s : State} {bs : List Bool}

/-- NSYM_PAY symbols make up the payload frame and fit OB (check 11). -/
theorem nSymPay_of_inv (hs : s.Inv) (hc : s.configured = true) :
    nSymPayOf s.actCfg * eta (payMod s.actCfg) = s.store.dp.nFrame ∧ nSymPayOf s.actCfg ≤ obSize ∧
      s.store.regs.nSymPay = BitVec.ofNat 16 (nSymPayOf s.actCfg) := by
  have hcfg := accepted_of_inv hs hc
  obtain ⟨-, hle⟩ := failedCheck_eq_none_iff.1 hcfg 11 (by decide) (by decide)
  rw [store_of_inv hs hc]
  exact ⟨(accepted_nSymPay hcfg).1, hle, rfl⟩

/-- The frame as INTERLEAVE.PAY leaves it (45_interleave.md R265). -/
def payloadBits (s : State) (bs : List Bool) : List Bool :=
  interleavedBy (payCols s.actCfg) s.store.dp.payTables bs

/-- The state PAYLOAD leaves: the symbols in OB and the frame consumed (47_assembler.md R307). -/
def payloadDone (s : State) (bs : List Bool) : State :=
  { withSymbols s .pay (nSymPayOf s.actCfg) (payloadBits s bs) with fb := Memory.invalid, cursor := 0 }

theorem payloadStages_of_inv (hs : s.Inv) (hc : s.configured = true) (hlen : bs.length = s.store.dp.nFrame) :
    payloadStages (frameLoaded s bs) = .ok (payloadDone s bs) := by
  obtain ⟨hsym, hob, -⟩ := nSymPay_of_inv hs hc
  obtain ⟨-, hmax⟩ := nFrame_of_inv hs hc
  have hbits : (payloadBits s bs).length = s.store.dp.nFrame := (length_interleavedBy _ _ _).trans hlen
  have hload : frameLoaded s bs = holding s bs := by rw [frameLoaded, holding, hlen]
  rw [hload]
  exact andThen_ok.2 ⟨_, interleavePayBody_holding hlen hmax,
    andThen_ok.2 ⟨_, mapBody_holding (hsym.trans hbits.symm) hob (hbits.trans_le hmax), rfl⟩⟩

end

/-- Settles O58: the checked read answers the frame or its lowest bad bit, and the stages run on the frame alone. -/
theorem payloadProducesTheFrame : Obligations.PayloadProducesTheFrame := by
  refine fun s => ⟨isCommand_of_codes (i := .payload) fun _ => rfl, exec_of_not_configured rfl, fun hc hout => ?_,
    fun hs hc hout => ?_⟩
  · exact endsInError_of_body_error (i := .payload) nofun (fun _ => hc) (payloadBody_error.2 (.inl ⟨hout, rfl⟩))
  · obtain ⟨hframe, hmax⟩ := nFrame_of_inv hs hc
    obtain ⟨hsym, -, hreg⟩ := nSymPay_of_inv hs hc
    have ⟨⟨hfb, _⟩, _⟩ := hs
    rw [← hframe]
    refine ⟨reportsFirstBadBit_of_body nofun (fun _ => hc) hfb fun e he =>
      payloadBody_error.2 (.inr ⟨hout, .inl he⟩), fun bs hl hb => ?_⟩
    have hok : payloadBody s = .ok (payloadDone s bs) :=
      payloadBody_ok.2 ⟨hout, bs, (readBits_ok hfb).2 ⟨hl, hb⟩, payloadStages_of_inv hs hc hl⟩
    have hfresh : payloadBody { s with fb := freshFrame bs } = .ok (payloadDone s bs) :=
      (payloadBody_from_fresh hfb hmax hl hb hout).symm.trans hok
    have hexec := exec_of_body_ok (i := .payload) nofun (fun _ => hc) hok
    have hexec' := exec_of_body_ok (i := .payload) (s := { s with fb := freshFrame bs }) nofun (fun _ => hc) hfresh
    refine ⟨hexec.trans hexec'.symm, _, hexec, rfl, Memory.elem_invalid, hreg.symm,
      toNat_outModOf_mapMod (accepted_of_inv hs hc) .pay, ?_⟩
    rw [← hsym, Nat.mul_div_cancel _ (eta_pos _)]
    exact emitsSymbols_write rfl

/-! ### ASSEMBLE sees no earlier frame (47_assembler.md R302, R306) -/

/-- The body answers from `f s` what it answers from `s`, seen through `g`: `Ignores` for a body that writes what `f`
replaces. -/
def Carries (b : Body) (f g : State → State) : Prop := ∀ s, b (f s) = (b s).map g

/-- The laws of a body say on what its success and its error depend: `f` and `g` keep both conditions. -/
theorem carries_of {b : Body} {f g : State → State} {Q : State → State → Prop} {P : State → CmdError → Prop}
    (hQ : ∀ {s t}, b s = .ok t ↔ Q s t) (hP : ∀ {s e}, b s = .error e ↔ P s e)
    (hok : ∀ s t, Q s t → Q (f s) (g t)) (herror : ∀ s e, P s e → P (f s) e) : Carries b f g := by
  intro s
  cases h : b s with
  | ok t => exact hQ.2 (hok s t (hQ.1 h))
  | error e => exact hP.2 (herror s e (hP.1 h))

theorem Carries.andThen {b c : Body} {f g h : State → State} (hb : Carries b f g) (hc : Carries c g h) :
    Carries (andThen b c) f h := by
  intro s
  unfold Machine.andThen
  rw [hb s]
  cases b s with
  | error e => rfl
  | ok t => exact hc t

section
variable (x : State)

/-- The core `x` with what the stages behind PACK read taken from `s`. -/
def ontoCore (s : State) : State :=
  { x with params := s.params, actCfg := s.actCfg, store := s.store, fb := s.fb, cursor := s.cursor }

/-- `ontoCore`, with the result of CRC_APPEND. -/
def ontoCoreCrc (s : State) : State :=
  { x with
    params := s.params, actCfg := s.actCfg, store := s.store, fb := s.fb, cursor := s.cursor, crcValue := s.crcValue }

/-- `ontoCoreCrc`, with the results of PUNCTURE. -/
def ontoCoreCounts (s : State) : State :=
  { x with
    params := s.params, actCfg := s.actCfg, store := s.store, fb := s.fb, cursor := s.cursor, crcValue := s.crcValue
    puncCount := s.puncCount, removedCount := s.removedCount }

/-- `ontoCoreCounts`, with the results of MAP: the entries it wrote stand before those of `x`. -/
def ontoCoreOutput (s : State) : State :=
  { x with
    params := s.params, actCfg := s.actCfg, store := s.store, fb := s.fb, cursor := s.cursor, crcValue := s.crcValue
    puncCount := s.puncCount, removedCount := s.removedCount, outCount := s.outCount, outMod := s.outMod
    ob := x.ob.write 0 ((List.range s.outCount.toNat).map s.ob.read) }

theorem crcBody_carries : Carries crcBody (ontoCore x) (ontoCoreCrc x) :=
  carries_of crcBody_ok crcBody_error
    (by rintro s _ ⟨hn, bs, hr, rfl⟩; exact ⟨hn, bs, hr, rfl⟩) (fun _ _ h => h)

theorem padBody_carries (r : Rec) : Carries (padBody r) (ontoCoreCrc x) (ontoCoreCrc x) :=
  carries_of padBody_ok padBody_error
    (by rintro s _ ⟨hn, rfl⟩; exact ⟨hn, rfl⟩) (fun _ _ h => h)

theorem bchBody_carries (r : Rec) : Carries (bchBody r) (ontoCoreCrc x) (ontoCoreCrc x) :=
  carries_of bchBody_ok bchBody_error
    (by rintro s _ ⟨hn, ms, hr, rfl⟩; exact ⟨hn, ms, hr, rfl⟩) (fun _ _ h => h)

theorem ldpcBody_carries (r : Rec) : Carries (ldpcBody r) (ontoCoreCrc x) (ontoCoreCrc x) :=
  carries_of ldpcBody_ok ldpcBody_error
    (by rintro s _ ⟨hn, ms, hr, rfl⟩; exact ⟨hn, ms, hr, rfl⟩) (fun _ _ h => h)

theorem punctureBody_carries (r : Rec) : Carries (punctureBody r) (ontoCoreCrc x) (ontoCoreCounts x) :=
  carries_of punctureBody_ok punctureBody_error
    (by rintro s _ ⟨hn, bs, hr, rfl⟩; exact ⟨hn, bs, hr, rfl⟩) (fun _ _ h => h)

theorem interleavePostBody_carries : Carries interleavePostBody (ontoCoreCounts x) (ontoCoreCounts x) :=
  carries_of interleavePostBody_ok interleavePostBody_error
    (by rintro s _ ⟨hm, hn, bs, hr, rfl⟩; exact ⟨hm, hn, bs, hr, rfl⟩) (fun _ _ h => h)

theorem interleaveStage_carries (r : Rec) : Carries (interleaveStage r) (ontoCoreCounts x) (ontoCoreCounts x) := by
  intro s
  cases r with
  | pre => rfl
  | post =>
    cases hi : l1Interleaved s.actCfg with
    | true =>
      rw [interleaveStage_post_of_interleaved hi, ← interleavePostBody_carries x s]
      exact interleaveStage_post_of_interleaved (s := ontoCoreCounts x s) hi
    | false =>
      rw [interleaveStage_post_of_not_interleaved hi]
      exact interleaveStage_post_of_not_interleaved (s := ontoCoreCounts x s) hi

/-- The entries that were written are those read back. -/
theorem map_read_write (m : WordRam) {ws : List Word} {n : Nat} (h : ws.length = n) :
    (List.range n).map (m.write 0 ws).read = ws := by
  subst h
  refine List.ext_getElem (by simp) fun k _ hk => ?_
  simp [WordRam.read_write, hk]

theorem mapBody_carries (sel : MapSel) : Carries (mapBody sel) (ontoCoreCounts x) (ontoCoreOutput x) := by
  refine carries_of mapBody_ok mapBody_error ?_ (fun _ _ h => h)
  rintro s _ ⟨hm, hn, bs, hr, rfl⟩
  refine ⟨hm, hn, bs, hr, ?_⟩
  have hcount := toNat_ofNat_16 (hn.trans (by decide))
  simp only [ontoCoreOutput, hcount, map_read_write _ (length_entriesOf _ _ _ _)]
  rfl

/-- PACK invalidates the whole frame buffer first, so it leaves two cores with the same fields the same frame. -/
theorem packBody_carries {r : Rec} {s : State} (h : SameAssembleInputs r s x) :
    packBody r x = (packBody r s).map (ontoCore x) := by
  obtain ⟨-, -, hparams, hcfg, hstore, -, hslots⟩ := h
  cases hp : packBody r s with
  | error e =>
    rw [packBody_error, ← hparams, ← hcfg] at hp
    exact packBody_error.2 hp
  | ok t =>
    obtain ⟨hsum, rfl⟩ := packBody_ok.1 hp
    rw [← hparams, ← hcfg] at hsum
    refine packBody_ok.2 ⟨hsum, ?_⟩
    simp only [ontoCore, ← hparams, ← hcfg, ← hstore, ← hslots]

theorem assembleBody_carries {r : Rec} {s : State} (h : SameAssembleInputs r s x) :
    assembleBody r x = (assembleBody r s).map (ontoCoreOutput x) := by
  have hlater := (crcBody_carries x).andThen <| (padBody_carries x r).andThen <| (bchBody_carries x r).andThen <|
    (ldpcBody_carries x r).andThen <| (punctureBody_carries x r).andThen <|
      (interleaveStage_carries x r).andThen (mapBody_carries x (mapSelOf r))
  have hpack := packBody_carries x h
  obtain ⟨-, -, -, -, hstore, hout, -⟩ := h
  unfold assembleBody
  rw [hout, hstore]
  split
  · rfl
  · unfold assembleStages andThen
    rw [hpack]
    cases packBody r s with
    | error e => rfl
    | ok t => exact hlater t

end

/-- Settles O57: PACK leaves both cores the same frame, and the stages behind it carry it from one to the other. -/
theorem assembleIsStatelessAcrossFrames : Obligations.AssembleIsStatelessAcrossFrames := by
  intro r s s' t h he he' ht
  obtain ⟨hne, hneeds, hbody, -⟩ := assembleOf_runs_assembleBody r
  have hcarries := assembleBody_carries s' h
  obtain ⟨hconfigured, hlatch, -⟩ := h
  cases hc : s.configured with
  | false =>
    cases (exec_of_not_configured hneeds hc).symm.trans ht
    exact ⟨_, exec_of_not_configured hneeds (hconfigured.trans hc), rfl, rfl, nofun⟩
  | true =>
    rw [exec_eq_runAlways hne fun _ => hc, hbody] at ht
    rw [exec_eq_runAlways hne fun _ => hconfigured.trans hc, hbody]
    rcases runAlways_cases (assembleBody r) s with ⟨u, hu, hx⟩ | ⟨e, hu, hx⟩ <;> cases hx.symm.trans ht
    · rw [hu] at hcarries
      have herr : u.err = false := bodyOf_keeps_err he (hbody ▸ hu)
      refine ⟨_, runAlways_ok hcarries, he'.trans herr.symm, ?_, fun _ => ⟨rfl, rfl, rfl, rfl, rfl, rfl, rfl, ?_⟩⟩
      · rw [finish_err, herr]
        rfl
      · intro k hk
        have hlt : k < u.outCount.toNat := hk
        exact (WordRam.read_write _ _ _ _).trans (by simp [hlt])
    · rw [hu] at hcarries
      exact ⟨_, runAlways_error hcarries, rfl, rfl, nofun⟩

end Sys2Proof.Proofs

/-! The exceptions family (60_exceptions.md) and the reset and hazards family (70_reset_and_hazards.md): the hazard window,
precise errors and the return from one, the end of BUSY, and the reset input. -/

namespace Sys2Proof.Proofs

open Sys2Proof Sys2Proof.Machine Sys2Proof.Claims

/-! ### The hazard window (60_exceptions.md R339, R343) -/

/-- No other address than those of CTRL and STATUS is open while BUSY = 1. -/
theorem allowedWhileBusy_targetOf_eq_false {a : Nat} (hctrl : a ≠ 0x00000) (hstatus : a ≠ 0x00004) :
    allowedWhileBusy (targetOf a) = false := by
  rw [targetOf, if_neg hctrl, if_neg hstatus]
  repeat refine iteInduction (motive := (allowedWhileBusy · = false)) (fun _ => rfl) (fun _ => ?_)
  rfl

/-- Settles O7: outside the window an admitted access is allowed, and inside it only CTRL and STATUS are open. -/
theorem hostHazardExactlyWhileBusy : Obligations.HostHazardExactlyWhileBusy := by
  intro s op a ha hlt
  have hadm : (Access.mk op a .w32).admitted = true := admitted_of_aligned op ha hlt
  by_cases hwindow : s.busy = true ∧ a ≠ 0x00004 ∧ a ≠ 0x00000
  · obtain ⟨hb, hstatus, hctrl⟩ := hwindow
    have hfault := hostAccess_hazard hadm hb (allowedWhileBusy_targetOf_eq_false hctrl hstatus)
    simp [hfault, hb, hstatus, hctrl]
  · have hallowed : AccessAllowed s ⟨op, a, .w32⟩ :=
      ⟨hadm, fun hb => by_contra fun hother => hwindow ⟨hb, (not_or.1 hother).symm⟩⟩
    obtain ⟨t, ht⟩ := hostAccess_next hallowed
    simp [ht, hwindow]

/-! ### Precise errors (60_exceptions.md R333) -/

/-- Settles O12: a success keeps ERR at 0, and of the two ways to end in error only a body's own can be CONFIGURE's. -/
theorem errorsArePrecise : Obligations.ErrorsArePrecise := by
  intro i s t hs ht herr
  rcases exec_cases i s with ⟨u, hu, hx⟩ | ⟨e, he, hx⟩ | ⟨hn, -, hx⟩ <;> cases hx.symm.trans ht
  · simp [bodyOf_keeps_err hs hu] at herr
  · have hge : 3 ≤ e.code.toNat := (bodyOf_raises i he).code_ge
    exact ⟨rfl, Nat.le_of_succ_le hge, (errorCode_range e).2⟩
  · have hi : i ≠ .configure := by rintro rfl; cases hn
    exact ⟨by rw [if_neg hi]; rfl, by simp [CmdError.code], (errorCode_range _).2⟩

/-! ### The return from an error (60_exceptions.md R335) -/

/-- STATUS is open at all times, and a write to it is the acknowledgement (10_state.md R34, R35). -/
theorem hostWrites_status (s : State) (v : Word) : HostWrites s 0x00004 v (acknowledge v s) :=
  hostWrites_of_allowed (a := 0x00004) v (by decide) (by decide) (.inr rfl)

theorem acknowledge_eq_ite (v : Word) (s : State) : acknowledge v s = { s with
    done := if v.getLsbD 1 then false else s.done
    err := if v.getLsbD 2 then false else s.err
    errCode := if v.getLsbD 2 then 0 else s.errCode
    errInfo := if v.getLsbD 2 then 0 else s.errInfo } := by
  have hflag : ∀ b c : Bool, (b && !c) = if c then false else b := by decide
  simp only [acknowledge, hflag]

/-- Settles O14: a STATUS write acknowledges in every state, and with bit 2 = 1 it leaves ERR = 0, where a CMD write
issues. -/
theorem acknowledgingAnErrorReturns : Obligations.AcknowledgingAnErrorReturns := by
  refine fun s v w => ⟨acknowledge_eq_ite v s ▸ hostWrites_status s v, fun hb he => ⟨?_, fun hv => ?_⟩⟩
  · simpa only [issue_of_error he] using hostWrites_cmd hb w
  · have hidle : (acknowledge v s).busy = false := hb
    have hclear : (acknowledge v s).err = false := by simp [hv]
    refine ⟨_, hostWrites_status s v, by simp [acknowledge, hv], ?_⟩
    simpa only [issue_of_no_error hclear] using hostWrites_cmd hidle w

/-! ### The end of BUSY (70_reset_and_hazards.md R386, 40_control.md R141) -/

theorem exec_ends_idle (i : Instr) (s : State) : ∃ t, exec i s = .next t ∧ t.busy = false := by
  rcases exec_cases i s with ⟨u, -, hx⟩ | ⟨e, -, hx⟩ | ⟨-, -, hx⟩ <;> exact ⟨_, hx, rfl⟩

theorem engineTurn_ends_idle (s : State) : ∃ t, engineTurn s = .next t ∧ t.busy = false := by
  rcases engineTurn_cases s with ⟨hb, hx⟩ | ⟨-, -, hx⟩ | ⟨-, i, -, hx⟩
  · exact ⟨_, hx, hb⟩
  · exact ⟨_, hx, rfl⟩
  · exact hx ▸ exec_ends_idle i s

/-- No host access ends the running command or takes an input of its own (70_reset_and_hazards.md R377; log 3). -/
theorem hostAccess_keeps_busy_and_inputs {s t : State} {a : Access} (h : hostAccess a s = .next t) (hb : s.busy = true) :
    t.busy = true ∧ t.inputs = s.inputs := by
  rcases hostAccess_cases a s with ⟨-, hx⟩ | ⟨-, -, -, hx⟩ | ⟨-, -, ⟨-, hx⟩ | ⟨v, -, hx⟩⟩ <;> cases hx.symm.trans h
  · exact ⟨hb, rfl⟩
  · cases targetOf a.addr with
    | cmd => exact ⟨by simp [writeTarget, hb], issue_inputs v s⟩
    | _ => exact ⟨hb, rfl⟩

/-- An access that keeps to CTRL and STATUS is allowed in every state (60_exceptions.md R339). -/
theorem accessAllowed_of_ctrl_or_status (s : State) {a : Access}
    (h : a.width = .w32 ∧ (a.addr = 0x00000 ∨ a.addr = 0x00004)) : AccessAllowed s a := by
  obtain ⟨hwidth, haddr⟩ := h
  refine ⟨?_, fun _ => haddr⟩
  rcases haddr with haddr | haddr <;> simp [Access.admitted, Access.aligned, Access.wide32, Access.inSpace, hwidth, haddr]

theorem run_succ_of_step {s t : State} (k : Nat) (h : step s = .next t) :
    Sys2Proof.core.run (k + 1) s = Sys2Proof.core.run k t := by
  simp only [Host.Core.run]
  rw [show Sys2Proof.core.step s = .next t from h]

/-- A step to an idle state is a run within any positive bound. -/
theorem exists_run_of_step_idle {s : State} (n : Nat) (h : ∃ t, step s = .next t ∧ t.busy = false) :
    ∃ k t, k ≤ n + 1 ∧ Sys2Proof.core.run k s = .next t ∧ t.busy = false := by
  obtain ⟨t, hstep, hidle⟩ := h
  exact ⟨1, t, Nat.le_add_left 1 n, run_succ_of_step 0 hstep, hidle⟩

/-- Settles O10, by induction on the inputs: the engine's turn and the reset leave the core idle, an allowed access leaves
it busy with the inputs behind it. -/
theorem busyCoreBecomesIdle : Obligations.BusyCoreBecomesIdle := by
  intro s hb hhost
  induction hin : s.inputs generalizing s with
  | nil => exact exists_run_of_step_idle 0 (step_of_no_input hin ▸ engineTurn_ends_idle s)
  | cons i rest ih =>
    cases i with
    | engine => exact exists_run_of_step_idle _ (step_of_input hin ▸ engineTurn_ends_idle _)
    | reset => exact exists_run_of_step_idle _ ⟨_, step_of_input hin, rfl⟩
    | bus a =>
      rw [hin] at hhost
      obtain ⟨u, hu⟩ := hostAccess_next
        (accessAllowed_of_ctrl_or_status { s with inputs := rest } (hhost a List.mem_cons_self))
      obtain ⟨hbusy, (hrest : u.inputs = rest)⟩ := hostAccess_keeps_busy_and_inputs hu hb
      obtain ⟨k, t, hk, hrun, hidle⟩ :=
        ih u hbusy (fun b hmem => hhost b (List.mem_cons_of_mem _ (hrest ▸ hmem))) hrest
      exact ⟨k + 1, t, Nat.succ_le_succ hk, (run_succ_of_step k ((step_of_input hin).trans hu)).trans hrun, hidle⟩

/-! ### The reset input (70_reset_and_hazards.md R370, R371) -/

/-- Settles O31: the reset is taken whatever the core is doing, and DONE, the one register that SOFT_RESET sets, is 0. -/
theorem resetInputActsInEveryState : Obligations.ResetInputActsInEveryState := by
  intro s rest hin
  have hreset : AtReset (resetCore { s with inputs := rest }) :=
    resetCore_atReset { s with inputs := rest }
  exact ⟨_, step_of_input hin, hreset, rfl, rfl, rfl, rfl, rfl, rfl⟩

end Sys2Proof.Proofs
